-- ==== Sys2Proof/Word.lean ====
section
/-! DEFINITION. The bit vectors of the machine (spec 00_scope.md R6, R7, R8): 32-bit words, 8-bit bytes,
8-bit offsets of the register window, and the 384-bit State as twelve words. Every value is unsigned. -/

namespace Sys2Proof

/-- A 32-bit unsigned word (R8); `DATA_WIDTH` of the register window (R6). -/
abbrev Word := BitVec 32

/-- An 8-bit byte. -/
abbrev Byte := BitVec 8

/-- A byte offset 0x00..0xFF of the register window, `ADDR_WIDTH` = 8 (R6, R50). -/
abbrev Offset := BitVec 8

/-- The spec's State: twelve 32-bit words (R6 `STATE_WORDS`, R10, R22). -/
abbrev SpongeState := Vector Word 12

/-- The all-zero State: the "created empty" state of R140. -/
def SpongeState.zero : SpongeState := #v[0, 0, 0, 0, 0, 0, 0, 0, 0, 0, 0, 0]

end Sys2Proof
end

