-- ==== Sys2Proof/Syntax.lean ====
section
/-! DEFINITION. The ten commands, one constructor for each row of spec/opcode_table.json (30_encoding.md R70-R76). -/

namespace Sys2Proof

/-- A decoded command: what PENDING holds (10_state.md R21, R31). Each operand has the width of its field (R70). -/
inductive Instr where
  /-- NEW (R141): construct a context with output length ARG. -/
  | new
  /-- RESET (R142): clear the absorbed state and the counter. -/
  | reset
  /-- WRITE n (R143): absorb the first `n` bytes of DIN; `n` is the field N = `v[12:8]` (R73). -/
  | write (n : BitVec 5)
  /-- SUM (R161): finalize a copy of the absorption state and start the squeeze. -/
  | sum
  /-- SQUEEZE (R163): pass on the current chunk. -/
  | squeeze
  /-- WCLEAR (R125): clear the working state. -/
  | wclear
  /-- PERMUTE (R109): apply P to the working state. -/
  | permute
  /-- ABSORB_BLOCK (R126): absorb DIN into the working state as one block. -/
  | absorbBlock
  /-- ABSORB_BYTE off, byte (R127): `off` is OFF = `v[7:4]` (R72), `byte` is BYTE = `v[23:16]` (R74). -/
  | absorbByte (off : BitVec 4) (byte : Byte)
  /-- OS_FINISH off (R181): `off` is OFF = `v[7:4]`, the tail length. -/
  | osFinish (off : BitVec 4)
deriving DecidableEq, Repr

end Sys2Proof
end

