-- ==== Sys2Proof/WellFormed.lean ====
section
/-! DEFINITION. Which commands are legal beside having their row's bits: only WRITE has a check, N <= 16
(30_encoding.md R73, R77). -/

namespace Sys2Proof

/-- The operand checks of a command (R73: "Values 0..16 are legal"). -/
def Instr.wellFormed : Instr → Bool
  | .new => true
  | .reset => true
  | .write n => decide (n ≤ 16)
  | .sum => true
  | .squeeze => true
  | .wclear => true
  | .permute => true
  | .absorbBlock => true
  | .absorbByte _ _ => true
  | .osFinish _ => true

/-- The command is well formed. -/
abbrev Instr.WellFormed (i : Instr) : Prop := i.wellFormed = true

end Sys2Proof
end

