-- ==== Sys2Proof/Decode.lean ====
section
/-! DEFINITION. The decoder, total on every 32-bit word and rejecting by name, and the encoder, both from the
opcode map of 30_encoding.md R76 and the fields of R70; the legality test of R77, written on its own. -/

namespace Sys2Proof

/-- OP = `v[3:0]` (R71). -/
def opField (v : Word) : BitVec 4 := v.extractLsb' 0 4

/-- OFF = `v[7:4]` (R72). -/
def offField (v : Word) : BitVec 4 := v.extractLsb' 4 4

/-- N = `v[12:8]` (R73). -/
def countField (v : Word) : BitVec 5 := v.extractLsb' 8 5

/-- BYTE = `v[23:16]` (R74). -/
def byteField (v : Word) : Byte := v.extractLsb' 16 8

/-- One row of the opcode map (R76): the word has this command's shape when `v & mask = pattern`. -/
structure OpcodeRow where
  /-- the row's mnemonic -/
  mnemonic : String
  /-- the row's `match` column -/
  pattern : Word
  /-- the row's `mask` column -/
  mask : Word
  /-- the command, from the fields the row uses -/
  build : Word → Instr

/-- `(v & row.mask) == row.match` (R77). -/
def OpcodeRow.matches (r : OpcodeRow) (v : Word) : Bool := v &&& r.mask == r.pattern

/-- The opcode map of R76, in its order. -/
def opcodeRows : List OpcodeRow :=
  [ ⟨"NEW", 0x00000001, 0xFFFFFFFF, fun _ => .new⟩,
    ⟨"RESET", 0x00000002, 0xFFFFFFFF, fun _ => .reset⟩,
    ⟨"WRITE", 0x00000003, 0xFFFFE0FF, fun v => .write (countField v)⟩,
    ⟨"SUM", 0x00000004, 0xFFFFFFFF, fun _ => .sum⟩,
    ⟨"SQUEEZE", 0x00000005, 0xFFFFFFFF, fun _ => .squeeze⟩,
    ⟨"WCLEAR", 0x00000006, 0xFFFFFFFF, fun _ => .wclear⟩,
    ⟨"PERMUTE", 0x00000007, 0xFFFFFFFF, fun _ => .permute⟩,
    ⟨"ABSORB_BLOCK", 0x00000008, 0xFFFFFFFF, fun _ => .absorbBlock⟩,
    ⟨"ABSORB_BYTE", 0x00000009, 0xFF00FF0F, fun v => .absorbByte (offField v) (byteField v)⟩,
    ⟨"OS_FINISH", 0x0000000A, 0xFFFFFF0F, fun v => .osFinish (offField v)⟩ ]

/-- Opcodes 0x0 and 0xB..0xF are reserved (R78). -/
def reservedOpcode (op : BitVec 4) : Bool := decide (op = 0) || decide (0xB ≤ op)

/-- `legal(v)` of R77, literally: some row matches, and a WRITE has N <= 16. -/
def legalWord (v : Word) : Bool :=
  opcodeRows.any (fun r => r.matches v) && (opField v != 0x3 || decide (countField v ≤ 16))

/-- Why a word is illegal (60_exceptions.md R203). -/
inductive DecodeError where
  /-- "a reserved opcode (0x0, 0xB..0xF)" -/
  | reservedOpcode
  /-- "a nonzero bit in a field its opcode does not use" -/
  | unusedFieldNonzero
  /-- "a WRITE count N > 16" -/
  | countTooLarge
deriving DecidableEq, Repr

/-- The decoder (R71-R79): total; a word it does not accept is named by its reason. -/
def decode (v : Word) : Except DecodeError Instr :=
  match opcodeRows.find? (fun r => r.matches v) with
  | some r => if (r.build v).wellFormed then .ok (r.build v) else .error .countTooLarge
  | none => if reservedOpcode (opField v) then .error .reservedOpcode else .error .unusedFieldNonzero

/-- The opcode of a command (R76). -/
def Instr.opcode : Instr → BitVec 4
  | .new => 0x1
  | .reset => 0x2
  | .write _ => 0x3
  | .sum => 0x4
  | .squeeze => 0x5
  | .wclear => 0x6
  | .permute => 0x7
  | .absorbBlock => 0x8
  | .absorbByte _ _ => 0x9
  | .osFinish _ => 0xA

/-- The encoder, word by word from the table of R81. -/
def encode : Instr → Word
  | .new => 0x00000001
  | .reset => 0x00000002
  | .write n => 0x00000003 ||| (n.setWidth 32 <<< 8)
  | .sum => 0x00000004
  | .squeeze => 0x00000005
  | .wclear => 0x00000006
  | .permute => 0x00000007
  | .absorbBlock => 0x00000008
  | .absorbByte off byte => 0x00000009 ||| (off.setWidth 32 <<< 4) ||| (byte.setWidth 32 <<< 16)
  | .osFinish off => 0x0000000A ||| (off.setWidth 32 <<< 4)

/-- The word a host places when it gives `nbits` bits numbered from bit 0 of the word: every bit above is 0. -/
def tableWord (nbits w : Nat) : Word := BitVec.ofNat 32 (w % 2 ^ nbits)

/-- The command the decoder reads from a word whose low `nbits` bits are `w`. -/
def decodeTableWord (nbits w : Nat) : Option Instr := (decode (tableWord nbits w)).toOption

end Sys2Proof
end

