-- ==== Sys2Proof/Config.lean ====
section
/-! DEFINITION. What the spec fixes for the whole machine (00_scope.md R6), and the free values: opaque constants
with no body, so that no proof can see what they are (20_memory.md R63, 60_exceptions.md R208). -/

namespace Sys2Proof

/-- `RATE`: the rate of a State in bytes (R6). -/
def Config.rate : Nat := 16

/-- `ROUNDS`: the rounds of the permutation, counted down from this number to 1 (R6). -/
def Config.rounds : Nat := 24

/-- `BLOCKSIZE`, "reports 16 always" (R6, R59). -/
def Config.blockSize : Word := 16

/-- The default output length of the canonical variant, in bytes (R6, R36). -/
def Config.defaultLength : Word := 32

/-- The output length of the one-shot path, "independent of L" (44_oneshot.md R181). -/
def Config.oneShotLength : Word := 32

/-- FREE VALUE (log entry 6): what the k-th free read returns. A read of any register but STATUS while BUSY = 1
or FAULT = 1 "returns any 32-bit value" (R63). -/
opaque Config.freeRead : Nat → Word

/-- FREE VALUE (log entry 7): whether the effect of a command abandoned by BUSY_VIOLATION happened; "it is not
said" (R208). -/
opaque Config.abandonedLands : Nat → Bool

/-- FREE VALUE (log entry 7): whether an abandoned NEW, if its effect happened, also wrote L. The list of R208
does not name L, so the model leaves it open on its own. -/
opaque Config.abandonedLengthLands : Nat → Bool

end Sys2Proof
end

