-- ==== Sys2Proof/Machine/State.lean ====
section
/-! DEFINITION. The state of the machine as plain data: everything 10_state.md R21 lists, the hidden round unit
(R34), and the model's own fields (the level of the reset input, the moves still to come, what the host has read,
the count of free values drawn). -/

namespace Sys2Proof.Machine

/-- The registers of the permutation_round_engine while it computes P (R34, R100): the round counter `r`, "counted
down from 24 to 1" and 0 once it has passed round 1, and the State after the rounds done so far. -/
structure RoundUnit where
  /-- the index of the next round; 0 means `done` -/
  r : Nat
  /-- the intermediate State -/
  st : SpongeState
deriving DecidableEq, Repr

/-- The width of a host access (R52: only the aligned 32-bit access is accepted). -/
inductive AccessWidth where
  | w8
  | w16
  | w32
  | w64
deriving DecidableEq, Repr

/-- One move of the host, of the engine, or of the reset input (R20, 70_reset_and_hazards.md R241). -/
inductive Event where
  /-- the host's `RegWrite(a, v)` (R50), with the width of the access -/
  | hostWrite (width : AccessWidth) (a : Offset) (v : Word)
  /-- the host's `RegRead(a)` (R50), with the width of the access -/
  | hostRead (width : AccessWidth) (a : Offset)
  /-- the engine's one architectural step, "complete" (R20) -/
  | engineComplete
  /-- the round unit advances inside the engine; changes no architectural state (R34, R108) -/
  | engineRound
  /-- the reset input is asserted (R230) -/
  | resetAssert
  /-- the reset input is released (R232) -/
  | resetRelease
deriving DecidableEq, Repr

/-- The state. Fields `a` to `faultCode` are the table of R21; `round` is its last row. -/
structure State where
  /-- `A[0..11]`, the absorption state of the streaming context (R22) -/
  a : SpongeState
  /-- `T`, the bytes absorbed into A, modulo 2^64 (R25) -/
  t : BitVec 64
  /-- `L`, the configured output length (R26) -/
  l : Word
  /-- `W[0..11]`, the working state (R27) -/
  w : SpongeState
  /-- `F[0..11]`, the transient final state of the squeezer (R28) -/
  f : SpongeState
  /-- `Q`, the output bytes remaining, the chunk now presented counted (R28) -/
  q : Word
  /-- `OUT_VALID`, a chunk is presented (R28) -/
  outValid : Bool
  /-- `DIN[0..3]`, the 16-byte input buffer (R29) -/
  din : Vector Word 4
  /-- `ARG`, the argument of NEW (R30) -/
  arg : Word
  /-- `BUSY`, a command is pending (R31) -/
  busy : Bool
  /-- `PENDING`, the decoded command the engine will complete, or none (R31) -/
  pending : Option Instr
  /-- `FAULT`, the block is in the fault state (R32) -/
  fault : Bool
  /-- `FAULT_CODE`, the code of the first fault since reset (R32) -/
  faultCode : Byte
  /-- the hidden round counter and intermediate round state, while P is being computed (R34) -/
  round : Option RoundUnit
  /-- MODEL'S OWN: the level of the reset input (R230; log entry 4) -/
  resetAsserted : Bool
  /-- MODEL'S OWN: the moves still to come, first one first (log entry 1) -/
  events : List Event
  /-- MODEL'S OWN: the values the host's reads have returned, newest first (log entry 5) -/
  replies : List Word
  /-- MODEL'S OWN: how many free values have been drawn (log entry 6) -/
  freeIx : Nat
deriving DecidableEq, Repr

/-- Why the machine stops. -/
inductive Fault where
  /-- Raised by `runQuiet` (a step with no move left) when FAULT = 1: the run has ended in the fault state, which is
  "never final" and from which the engine has no step (60_exceptions.md R209, R240). It carries FAULT_CODE. SAFE: the
  spec says a model treats the fault state as a fault outcome. -/
  | faultState (code : Byte)
deriving DecidableEq, Repr

/-- Why the machine gives a move no meaning. -/
inductive Refusal where
  /-- Raised by an arm of `exec` whose command has no meaning yet; no arm of this model raises it. SAFE. -/
  | notModelled (mnemonic : String)
  /-- Raised by `hostWrite` and `hostRead` on an access that is not an aligned 32-bit access: the hardware answers
  with a bus error and changes nothing, and "a model refuses such an access" (R52). SAFE. -/
  | busError
  /-- Raised by `hostWrite` and `hostRead` while the reset input is asserted: "no register access is accepted while
  reset is asserted" (R230), and nothing says what the host sees. SAFE. -/
  | heldInReset
deriving DecidableEq, Repr

/-- The state right after reset (R36, R230), with nothing scheduled. `round` idle, `resetAsserted` false and the last
three fields are the model's choice (log entries 1, 3, 4, 5, 6). -/
def State.reset : State where
  a := SpongeState.zero
  t := 0
  l := Config.defaultLength
  w := SpongeState.zero
  f := SpongeState.zero
  q := 0
  outValid := false
  din := #v[0, 0, 0, 0]
  arg := 0
  busy := false
  pending := none
  fault := false
  faultCode := 0
  round := none
  resetAsserted := false
  events := []
  replies := []
  freeIx := 0

end Sys2Proof.Machine
end

