-- ==== Sys2Proof/Machine/Permutation.lean ====
section
/-! DEFINITION. The permutation P (40_permutation.md R101-R106), and the permutation_round_engine that computes it one
round at a time (R100, R108). -/

namespace Sys2Proof.Machine

/-- `rotl32(a, n)` (00_scope.md R8): the left rotation of a word, 0 <= n < 32. -/
def rotl32 (x : Word) (n : Nat) : Word := (x <<< n) ||| (x >>> (32 - n))

/-- The SP-box of one column (R101): (a, b, c) is (S[i], S[i+4], S[i+8]), and every read is of the old values. -/
def spbox (a b c : Word) : Word × Word × Word :=
  let x := rotl32 a 24
  let y := rotl32 b 9
  let z := c
  let c' := x ^^^ (z <<< 1) ^^^ ((y &&& z) <<< 2)
  let b' := y ^^^ x ^^^ ((x ||| z) <<< 1)
  let a' := z ^^^ y ^^^ ((x &&& y) <<< 3)
  (a', b', c')

/-- The column layer (R102): the four columns, each by itself. -/
def columns (S : SpongeState) : SpongeState :=
  let c0 := spbox S[0] S[4] S[8]
  let c1 := spbox S[1] S[5] S[9]
  let c2 := spbox S[2] S[6] S[10]
  let c3 := spbox S[3] S[7] S[11]
  #v[c0.1, c1.1, c2.1, c3.1, c0.2.1, c1.2.1, c2.2.1, c3.2.1, c0.2.2, c1.2.2, c2.2.2, c3.2.2]

/-- The round constant `rc(r) = 0x9e377900 | r` (R104). -/
def roundConstant (r : Nat) : Word := 0x9e377900 ||| BitVec.ofNat 32 r

/-- The "small swap" (R103): S[0] with S[1] and S[2] with S[3]. -/
def smallSwap (S : SpongeState) : SpongeState :=
  #v[S[1], S[0], S[3], S[2], S[4], S[5], S[6], S[7], S[8], S[9], S[10], S[11]]

/-- The "big swap" (R103): S[0] with S[2] and S[1] with S[3]. -/
def bigSwap (S : SpongeState) : SpongeState :=
  #v[S[2], S[3], S[0], S[1], S[4], S[5], S[6], S[7], S[8], S[9], S[10], S[11]]

/-- `S[0] <- S[0] ^ rc(r)`, after the small swap (R103). -/
def addConstant (r : Nat) (S : SpongeState) : SpongeState := S.set 0 (S[0] ^^^ roundConstant r)

/-- The linear layer of round r, chosen by `r mod 4` (R103). -/
def linear (r : Nat) (S : SpongeState) : SpongeState :=
  if r % 4 = 0 then addConstant r (smallSwap S)
  else if r % 4 = 2 then bigSwap S
  else S

/-- One round with index r (R105): the column layer first, the linear layer second. -/
def spongeRound (r : Nat) (S : SpongeState) : SpongeState := linear r (columns S)

/-- The rounds n, n-1, ..., 1, in this order (R106). -/
def roundsFrom : Nat → SpongeState → SpongeState
  | 0, S => S
  | n + 1, S => roundsFrom n (spongeRound (n + 1) S)

/-- The permutation `P(S)` (R106): the rounds 24 down to 1. -/
def perm (S : SpongeState) : SpongeState := roundsFrom Config.rounds S

/-- `start` (R100): load `state_in` and set the round counter to 24. -/
def RoundUnit.start (S : SpongeState) : RoundUnit := { r := Config.rounds, st := S }

/-- One round of the unit (R34, R100): round `r` on the intermediate State, and `r` counts down; once `r` has passed
round 1 the unit holds its result. -/
def RoundUnit.clock (u : RoundUnit) : RoundUnit :=
  match u.r with
  | 0 => u
  | n + 1 => { r := n, st := spongeRound (n + 1) u.st }

/-- `n` rounds of the unit. -/
def RoundUnit.clocks : Nat → RoundUnit → RoundUnit
  | 0, u => u
  | n + 1, u => RoundUnit.clocks n u.clock

/-- `done` (R100): high once r has passed round 1. -/
def RoundUnit.done (u : RoundUnit) : Bool := u.r == 0

end Sys2Proof.Machine
end

