-- ==== Sys2Proof/Machine/Ops.lean ====
section
/-! DEFINITION. The shared operations: the byte view of a State and the byte_lane_multiplexer (10_state.md R23, R24;
41_absorbers.md R120), the sponge_absorber (R122, R123), padding (43_finalize_squeeze.md R160), raising a fault
(60_exceptions.md R208) and the one way back, hardware reset (70_reset_and_hazards.md R230), and running one command. -/

namespace Sys2Proof.Machine

/-! ### Bytes of words -/

/-- Lane k of a word: bits [8k+7 : 8k] (R23). -/
def laneByte (x : Word) (k : Nat) : Byte := (x >>> (8 * k)).setWidth 8

/-- `zext_32(v) << (8 * k)`: a byte in lane k of a word (R24). -/
def laneWord (v : Byte) (k : Nat) : Word := v.setWidth 32 <<< (8 * k)

/-- `byte(S, o)` (R23): byte o of the byte view, 0 <= o < 48. No caller passes an o outside that range; there it
answers 0. -/
def stateByte (S : SpongeState) (o : Nat) : Byte :=
  if h : o < 48 then laneByte S[o / 4] (o % 4) else 0

/-- `xor_byte(S, o, v)` (R24), the byte_lane_multiplexer: S with byte o XORed by v. It is defined for 0 <= o < 16 and no
caller passes another o; there it changes nothing. -/
def xorByte (S : SpongeState) (o : Nat) (v : Byte) : SpongeState :=
  if h : o < 16 then S.set (o / 4) (S[o / 4] ^^^ laneWord v (o % 4)) else S

/-- The bytes of `m` XORed at offsets o, o+1, ... (the loops of R143 steps 1 and 3). -/
def xorBytes (S : SpongeState) (o : Nat) : List Byte → SpongeState
  | [] => S
  | b :: m => xorBytes (xorByte S o b) (o + 1) m

/-- A State on the 384-bit bus: word i at bits [32i+31 : 32i] (00_scope.md R7). -/
def stateBus (S : SpongeState) : BitVec 384 :=
  S[11] ++ S[10] ++ S[9] ++ S[8] ++ S[7] ++ S[6] ++ S[5] ++ S[4] ++ S[3] ++ S[2] ++ S[1] ++ S[0]

/-- The rate on the byte_lane_multiplexer's port: byte o at bits [8o+7 : 8o], 0 <= o < 16 (R120). -/
def rateBus (S : SpongeState) : BitVec 128 := S[3] ++ S[2] ++ S[1] ++ S[0]

/-- `rate_out = rate_in ^ (zext_128(val) << (8 * off))` (R120). -/
def laneMultiplexer (rateIn : BitVec 128) (off : BitVec 4) (val : Byte) : BitVec 128 :=
  rateIn ^^^ (val.setWidth 128 <<< (8 * off.toNat))

/-! ### The sponge_absorber -/

/-- The little-endian word j of a byte list, `m[4j] | (m[4j+1] << 8) | ...`; bytes not given are 0 (R122, 30_encoding.md
R83 `loaddin`). -/
def blockWord (m : List Byte) (j : Nat) : Word :=
  laneWord (m.getD (4 * j) 0) 0 ||| laneWord (m.getD (4 * j + 1) 0) 1 |||
    laneWord (m.getD (4 * j + 2) 0) 2 ||| laneWord (m.getD (4 * j + 3) 0) 3

/-- Four words XORed into words 0..3 of a State (R122, R126). -/
def xorRate (S : SpongeState) (x0 x1 x2 x3 : Word) : SpongeState :=
  #v[S[0] ^^^ x0, S[1] ^^^ x1, S[2] ^^^ x2, S[3] ^^^ x3, S[4], S[5], S[6], S[7], S[8], S[9], S[10], S[11]]

/-- The XOR half of `absorb_block(S, m)` (R122). -/
def xorBlock (S : SpongeState) (m : List Byte) : SpongeState :=
  xorRate S (blockWord m 0) (blockWord m 1) (blockWord m 2) (blockWord m 3)

/-- `absorb_block(S, m)` (R122): XOR the block into the rate, then P. -/
def absorbBlock (S : SpongeState) (m : List Byte) : SpongeState := perm (xorBlock S m)

/-- A count of complete 16-byte blocks, absorbed in order (R123). -/
def absorbBlocks : Nat → SpongeState → List Byte → SpongeState
  | 0, S, _ => S
  | c + 1, S, m => absorbBlocks c (absorbBlock S (m.take Config.rate)) (m.drop Config.rate)

/-! ### Padding -/

/-- `pad(S, t)` (R160): 0x1f at the first free offset and 0x80 at offset rate-1, both always applied. -/
def pad (S : SpongeState) (t : Nat) : SpongeState := xorByte (xorByte S t 0x1f) 15 0x80

/-! ### Faults and reset -/

/-- The four fault causes (60_exceptions.md R201). -/
inductive FaultCause where
  /-- NEW issued with ARG = 0 (R202) -/
  | outlenZero
  /-- CMD write of an illegal word (R203) -/
  | illegalCmd
  /-- SQUEEZE issued with OUT_VALID = 0 (R204) -/
  | squeezeEmpty
  /-- any register write while BUSY = 1 (R205) -/
  | busyViolation
deriving DecidableEq, Repr

/-- The code FAULT_CODE holds for a cause (R201). -/
def causeCode : FaultCause → Byte
  | .outlenZero => 0x01
  | .illegalCmd => 0x02
  | .squeezeEmpty => 0x03
  | .busyViolation => 0x04

/-- `raise Fault(code)` (R208): enter the fault state; a command in flight is abandoned, and the round unit with it. -/
def raiseFault (c : FaultCause) (s : State) : State :=
  { s with fault := true, faultCode := causeCode c, pending := none, busy := false, round := none }

/-- Hardware reset (R36, R230), the only way out of the fault state (R210): every element of R21 takes its reset value.
The moves still to come, what the host has read and the count of free values are not elements of the block. -/
def hardReset (s : State) : State :=
  { State.reset with
      resetAsserted := s.resetAsserted, events := s.events, replies := s.replies, freeIx := s.freeIx }

/-! ### Running a command -/

/-- `PENDING <- none; BUSY <- 0`, in the complete step itself (R31); the round unit is idle again. -/
def retire (s : State) : State := { s with pending := none, busy := false, round := none }

/-- The checks a legal command must pass at issue (30_encoding.md R77): a WRITE count up to 16 (a well-formed command),
ARG <> 0 for NEW, OUT_VALID = 1 for SQUEEZE. In this order (60_exceptions.md R207). -/
def issueFault (i : Instr) (s : State) : Option FaultCause :=
  if i.wellFormed = false then some .illegalCmd
  else if i = .new ∧ s.arg = 0 then some .outlenZero
  else if i = .squeeze ∧ s.outValid = false then some .squeezeEmpty
  else none

/-- What every command shares (log entry 8). In the fault state nothing happens (R209). Otherwise its checks, which in
every run it has passed at issue, and then its effect with PENDING and BUSY cleared, in one step (R31, R64). -/
def runCommand (i : Instr) (effect : State → State) (s : State) : Host.Outcome State Fault Refusal :=
  if s.fault then .next s
  else match issueFault i s with
    | some c => .next (raiseFault c s)
    | none => .next (retire (effect s))

end Sys2Proof.Machine
end

