-- ==== Sys2Proof/Machine/Operands.lean ====
section
/-! DEFINITION. Where a command's operands come from: DIN's bytes (10_state.md R29), the pending byte count of the
context (R25), and the register of each offset of the window (20_memory.md R51). -/

namespace Sys2Proof.Machine

/-- Input byte k of DIN, `(DIN[k / 4] >> (8 * (k mod 4))) & 0xFF`, k = 0..15 (R29). No caller passes another k; there it
answers 0. -/
def dinByte (D : Vector Word 4) (k : Nat) : Byte :=
  if h : k < 16 then laneByte D[k / 4] (k % 4) else 0

/-- The first n input bytes of DIN, n <= 16 (42_streaming_write.md R143). -/
def dinBytes (D : Vector Word 4) (n : Nat) : List Byte := (List.range n).map (dinByte D)

/-- `T mod 16`: the offset of the first free rate byte of A (R25, R143). -/
def pendingBytes (s : State) : Nat := s.t.toNat % Config.rate

/-- The registers of the window (20_memory.md R51). -/
inductive Reg where
  | cmd
  | status
  | arg
  | outlen
  | blocksize
  | outrem
  | din (j : Fin 4)
  | dout (j : Fin 4)
  | w (i : Fin 12)
  | reserved
deriving DecidableEq, Repr

/-- The register at a word-aligned offset (R51); every other offset is reserved. -/
def regAt (a : Offset) : Reg :=
  let n := a.toNat
  if n = 0x00 then .cmd
  else if n = 0x04 then .status
  else if n = 0x08 then .arg
  else if n = 0x0C then .outlen
  else if n = 0x10 then .blocksize
  else if n = 0x14 then .outrem
  else if 0x20 ≤ n ∧ n ≤ 0x2C then .din (Fin.ofNat 4 ((n - 0x20) / 4))
  else if 0x30 ≤ n ∧ n ≤ 0x3C then .dout (Fin.ofNat 4 ((n - 0x30) / 4))
  else if 0x40 ≤ n ∧ n ≤ 0x6C then .w (Fin.ofNat 12 ((n - 0x40) / 4))
  else .reserved

/-- The window accepts only aligned 32-bit accesses (R52). -/
def accessOk (width : AccessWidth) (a : Offset) : Bool := width == .w32 && a.toNat % 4 == 0

end Sys2Proof.Machine
end

