-- ==== Sys2Proof/Machine/Flags.lean ====
section
/-! DEFINITION. The flags: OUT_BYTES, the DOUT registers it masks (43_finalize_squeeze.md R162), and STATUS, which is
composed from the state (10_state.md R33). The block has no other flag or condition code. -/

namespace Sys2Proof.Machine

/-- `OUT_VALID ? min(16, Q) : 0`, the number of valid bytes in DOUT (R33, R162). -/
def outBytes (s : State) : Nat := if s.outValid then min Config.rate s.q.toNat else 0

/-- Byte i of the chunk: byte i of F where it is valid, and 0 at index OUT_BYTES and above (R162). -/
def chunkByte (s : State) (i : Nat) : Byte := if i < outBytes s then stateByte s.f i else 0

/-- `dout(j)` (R162): bytes 4j..4j+3 of the chunk, byte k in lane k. -/
def dout (s : State) (j : Nat) : Word :=
  laneWord (chunkByte s (4 * j)) 0 ||| laneWord (chunkByte s (4 * j + 1)) 1 |||
    laneWord (chunkByte s (4 * j + 2)) 2 ||| laneWord (chunkByte s (4 * j + 3)) 3

/-- A flag at bit 0 of a word. -/
def flagWord (b : Bool) : Word := if b then 1 else 0

/-- STATUS (R33): BUSY at bit 0, FAULT at bit 1, OUT_VALID at bit 2, OUT_BYTES at bits 12:8, FAULT_CODE at bits 23:16,
the rest 0; in the fault state exactly `(zext_32(FAULT_CODE) << 16) | 2`. -/
def status (s : State) : Word :=
  if s.fault then (s.faultCode.setWidth 32 <<< 16) ||| 0x00000002
  else flagWord s.busy ||| (flagWord s.outValid <<< 2) ||| (BitVec.ofNat 32 (outBytes s) <<< 8)

end Sys2Proof.Machine
end

