-- ==== Sys2Proof/Machine/Absorb.lean ====
section
/-! DEFINITION. The commands of the sponge_absorber and the byte_lane_multiplexer on the working state: WCLEAR,
ABSORB_BLOCK, ABSORB_BYTE (41_absorbers.md R125-R127). -/

namespace Sys2Proof.Machine

/-- `W[i] <- 0` for every i (R125). -/
def wclearEffect (s : State) : State := { s with w := SpongeState.zero }

/-- WCLEAR (R125). -/
def execWclear (s : State) : Host.Outcome State Fault Refusal := runCommand .wclear wclearEffect s

/-- `W[j] <- W[j] ^ DIN[j]` for j = 0..3, then `W <- P(W)` (R126). -/
def absorbBlockEffect (s : State) : State :=
  { s with w := perm (xorRate s.w s.din[0] s.din[1] s.din[2] s.din[3]) }

/-- ABSORB_BLOCK (R126). -/
def execAbsorbBlock (s : State) : Host.Outcome State Fault Refusal := runCommand .absorbBlock absorbBlockEffect s

/-- `W <- xor_byte(W, OFF, BYTE)` (R127). -/
def absorbByteEffect (off : BitVec 4) (byte : Byte) (s : State) : State :=
  { s with w := xorByte s.w off.toNat byte }

/-- ABSORB_BYTE off, byte (R127). -/
def execAbsorbByte (off : BitVec 4) (byte : Byte) (s : State) : Host.Outcome State Fault Refusal :=
  runCommand (.absorbByte off byte) (absorbByteEffect off byte) s

end Sys2Proof.Machine
end

