-- ==== Sys2Proof/Machine/OneShot.lean ====
section
/-! DEFINITION. The one-shot path's own command: OS_FINISH (44_oneshot.md R181). -/

namespace Sys2Proof.Machine

/-- `W <- P(pad(W, OFF)); F <- W; Q <- 32; OUT_VALID <- 1` (R181). -/
def osFinishEffect (off : BitVec 4) (s : State) : State :=
  let finalized := perm (pad s.w off.toNat)
  { s with w := finalized, f := finalized, q := Config.oneShotLength, outValid := true }

/-- OS_FINISH off (R181). -/
def execOsFinish (off : BitVec 4) (s : State) : Host.Outcome State Fault Refusal :=
  runCommand (.osFinish off) (osFinishEffect off) s

end Sys2Proof.Machine
end

