-- ==== Sys2Proof/Machine/Permute.lean ====
section
/-! DEFINITION. The command of the permutation_round_engine: PERMUTE (40_permutation.md R109). -/

namespace Sys2Proof.Machine

/-- `W <- P(W)` (R109). -/
def permuteEffect (s : State) : State := { s with w := perm s.w }

/-- PERMUTE (R109). -/
def execPermute (s : State) : Host.Outcome State Fault Refusal := runCommand .permute permuteEffect s

end Sys2Proof.Machine
end

