-- ==== Sys2Proof/Machine/Squeeze.lean ====
section
/-! DEFINITION. Finalize and the sponge_squeezer: SUM, SQUEEZE (43_finalize_squeeze.md R161, R163). -/

namespace Sys2Proof.Machine

/-- `F <- P(pad(A, T mod 16)); Q <- L; OUT_VALID <- 1` (R161). -/
def sumEffect (s : State) : State :=
  { s with f := perm (pad s.a (pendingBytes s)), q := s.l, outValid := true }

/-- SUM (R161). -/
def execSum (s : State) : Host.Outcome State Fault Refusal := runCommand .sum sumEffect s

/-- If Q > 16, `Q <- Q - 16; F <- P(F)`; else `Q <- 0; OUT_VALID <- 0`, with no permutation (R163). -/
def squeezeEffect (s : State) : State :=
  if 16 < s.q then { s with q := s.q - 16, f := perm s.f } else { s with q := 0, outValid := false }

/-- SQUEEZE (R163). -/
def execSqueeze (s : State) : Host.Outcome State Fault Refusal := runCommand .squeeze squeezeEffect s

end Sys2Proof.Machine
end

