-- ==== Sys2Proof/Machine/Stream.lean ====
section
/-! DEFINITION. The streaming_hasher_fsm's context: NEW, RESET, WRITE (42_streaming_write.md R141-R143), and the
byte-at-a-time form of WRITE that R145 gives. -/

namespace Sys2Proof.Machine

/-- `L <- ARG; A <- 0; T <- 0` (R141). -/
def newEffect (s : State) : State := { s with l := s.arg, a := SpongeState.zero, t := 0 }

/-- NEW (R141). -/
def execNew (s : State) : Host.Outcome State Fault Refusal := runCommand .new newEffect s

/-- `A <- 0; T <- 0` (R142). -/
def resetEffect (s : State) : State := { s with a := SpongeState.zero, t := 0 }

/-- RESET (R142). -/
def execReset (s : State) : Host.Outcome State Fault Refusal := runCommand .reset resetEffect s

/-- How many bytes step 1 of WRITE consumes, with `o` bytes pending and `n` to absorb (R143): none when no partial block
is pending, else as many as there are up to the block boundary. -/
def step1Count (o n : Nat) : Nat := if o = 0 then 0 else min n (Config.rate - o)

/-- WRITE steps 1 to 3 on the absorption state (R143), with `o = T mod 16` bytes pending: finish the partial block, with P
if the boundary is reached; absorb the complete blocks; leave the remainder pending. -/
def absorbInto (A : SpongeState) (o : Nat) (m : List Byte) : SpongeState :=
  let i := step1Count o m.length
  let A1 := xorBytes A o (m.take i)
  let A2 := if o ≠ 0 ∧ o + i = Config.rate then perm A1 else A1
  let rest := m.drop i
  let nb := rest.length / Config.rate
  xorBytes (absorbBlocks nb A2 rest) 0 (rest.drop (Config.rate * nb))

/-- WRITE's effect (R143): the bytes m[0..N-1] of DIN into A, and `T <- (T + N) mod 2^64`. -/
def writeEffect (n : BitVec 5) (s : State) : State :=
  { s with
      a := absorbInto s.a (pendingBytes s) (dinBytes s.din n.toNat)
      t := s.t + n.setWidth 64 }

/-- WRITE n (R143). -/
def execWrite (n : BitVec 5) (s : State) : Host.Outcome State Fault Refusal :=
  runCommand (.write n) (writeEffect n) s

/-- `absorb_byte(A, T, b)` (R145): one byte of the fold that WRITE equals. -/
def absorbOne (c : SpongeState × BitVec 64) (b : Byte) : SpongeState × BitVec 64 :=
  let A := xorByte c.1 (c.2.toNat % Config.rate) b
  let T := c.2 + 1
  (if T.toNat % Config.rate = 0 then perm A else A, T)

/-- The left fold of R145 over a list of bytes. -/
def absorbFold (A : SpongeState) (T : BitVec 64) (m : List Byte) : SpongeState × BitVec 64 :=
  m.foldl absorbOne (A, T)

end Sys2Proof.Machine
end

