-- ==== Sys2Proof/Machine/Dispatch.lean ====
section
/-! DEFINITION. One arm per command: what the engine's complete step does with it (10_state.md R31). -/

namespace Sys2Proof.Machine

def exec (i : Instr) (s : State) : Host.Outcome State Fault Refusal :=
  match i with
  | .new => Sys2Proof.Machine.execNew s
  | .reset => Sys2Proof.Machine.execReset s
  | .write n => Sys2Proof.Machine.execWrite n s
  | .sum => Sys2Proof.Machine.execSum s
  | .squeeze => Sys2Proof.Machine.execSqueeze s
  | .wclear => Sys2Proof.Machine.execWclear s
  | .permute => Sys2Proof.Machine.execPermute s
  | .absorbBlock => Sys2Proof.Machine.execAbsorbBlock s
  | .absorbByte off byte => Sys2Proof.Machine.execAbsorbByte off byte s
  | .osFinish off => Sys2Proof.Machine.execOsFinish off s

end Sys2Proof.Machine
end

