-- ==== Sys2Proof/Machine/RoundEngine.lean ====
section
/-! DEFINITION. The permutation_round_engine inside the engine (40_permutation.md R100, R108; 10_state.md R34): which
State each pending command hands it, and one round of it. Nothing here is architectural: only the field `round` changes. -/

namespace Sys2Proof.Machine

/-- `state_in` for a pending command: the State on which its rule runs P, if it runs P (R100: "PERMUTE, ABSORB_BLOCK, WRITE,
SUM, SQUEEZE and OS_FINISH"). A WRITE runs P when its bytes reach the block boundary (R144), a SQUEEZE when Q > 16. -/
def permInput (i : Instr) (s : State) : Option SpongeState :=
  match i with
  | .new => none
  | .reset => none
  | .write n =>
    let o := pendingBytes s
    let m := dinBytes s.din n.toNat
    if Config.rate ≤ o + m.length then some (xorBytes s.a o (m.take (Config.rate - o))) else none
  | .sum => some (pad s.a (pendingBytes s))
  | .squeeze => if 16 < s.q then some s.f else none
  | .wclear => none
  | .permute => some s.w
  | .absorbBlock => some (xorRate s.w s.din[0] s.din[1] s.din[2] s.din[3])
  | .absorbByte _ _ => none
  | .osFinish off => some (pad s.w off.toNat)

/-- The round unit's next value while `i` is pending: `start` loads `state_in`, then one round at a time (R100). -/
def nextRound (i : Instr) (s : State) : Option RoundUnit :=
  match s.round with
  | none => (permInput i s).map RoundUnit.start
  | some u => some u.clock

/-- The engine advances inside the pending command by one round. Without a pending command, in the fault state ("the engine
has no step", 60_exceptions.md R209) and in reset, nothing happens. -/
def engineRound (s : State) : State :=
  if s.fault || s.resetAsserted then s
  else match s.pending with
    | none => s
    | some i => { s with round := nextRound i s }

end Sys2Proof.Machine
end

