-- ==== Sys2Proof/Machine/Agents.lean ====
section
/-! DEFINITION. The moves of the agents (10_state.md R20): the host's RegWrite and RegRead (20_memory.md R58, R59), issuing a
command (30_encoding.md R77), the engine's complete step (R31), the reset input (70_reset_and_hazards.md R230), and what a
step does when no move is left. -/

namespace Sys2Proof.Machine

/-! ### RegWrite -/

/-- `issue(v)` (R77), reached with FAULT = 0 and BUSY = 0. -/
def issue (v : Word) (s : State) : State :=
  match decode v with
  | .error _ => raiseFault .illegalCmd s
  | .ok i =>
    match issueFault i s with
    | some c => raiseFault c s
    | none => { s with pending := some i, busy := true }

/-- The state an abandoned command leaves, when `t` is the state its completion would have left: its effect on A, T, W, F, Q
and OUT_VALID happened or did not, and "it is not said" which (60_exceptions.md R208, U3; log entry 7). -/
def abandonTo (t s : State) : State :=
  if Config.abandonedLands s.freeIx then
    { s with
        a := t.a, t := t.t, w := t.w, f := t.f, q := t.q, outValid := t.outValid
        l := if Config.abandonedLengthLands s.freeIx then t.l else s.l
        freeIx := s.freeIx + 1 }
  else { s with freeIx := s.freeIx + 1 }

/-- A register write while BUSY = 1 (R205): the pending command is abandoned and the block enters the fault state. -/
def violateBusy (s : State) : State :=
  match s.pending with
  | none => raiseFault .busyViolation s
  | some i =>
    match exec i s with
    | .next t => raiseFault .busyViolation (abandonTo t s)
    | .fault _ => raiseFault .busyViolation s
    | .refused _ => raiseFault .busyViolation s

/-- `case a of` in RegWrite (R58): only CMD, ARG, DIN and W are written. -/
def writeReg (r : Reg) (v : Word) (s : State) : State :=
  match r with
  | .cmd => issue v s
  | .arg => { s with arg := v }
  | .din j => { s with din := s.din.set j v }
  | .w i => { s with w := s.w.set i v }
  | .status => s
  | .outlen => s
  | .blocksize => s
  | .outrem => s
  | .dout _ => s
  | .reserved => s

/-- `RegWrite(a, v)` (R58), for an aligned 32-bit write: ignored once faulted, BUSY_VIOLATION while busy, else the case on
the offset. -/
def regWrite (a : Offset) (v : Word) (s : State) : State :=
  if s.fault then s
  else if s.busy then violateBusy s
  else writeReg (regAt a) v s

/-- The host's write (R50, R52). -/
def hostWrite (width : AccessWidth) (a : Offset) (v : Word) (s : State) : Host.Outcome State Fault Refusal :=
  if s.resetAsserted then .refused .heldInReset
  else if accessOk width a then .next (regWrite a v s)
  else .refused .busError

/-! ### RegRead -/

/-- `case a of` in RegRead (R59). -/
def readReg (r : Reg) (s : State) : Word :=
  match r with
  | .cmd => 0
  | .status => status s
  | .arg => s.arg
  | .outlen => s.l
  | .blocksize => Config.blockSize
  | .outrem => s.q
  | .din j => s.din[j]
  | .dout j => dout s j
  | .w i => s.w[i]
  | .reserved => 0

/-- Whether a read of this register returns any value: BUSY = 1 or FAULT = 1, and the register is not STATUS (R59, R63). -/
def readIsFree (r : Reg) (s : State) : Bool := r != .status && (s.fault || s.busy)

/-- `RegRead(a)` (R59), for an aligned 32-bit read: the value goes to the host (`replies`), and a free value is drawn where
"any 32-bit value" is returned. No other field changes (R55). -/
def regRead (a : Offset) (s : State) : State :=
  if readIsFree (regAt a) s then
    { s with replies := Config.freeRead s.freeIx :: s.replies, freeIx := s.freeIx + 1 }
  else { s with replies := readReg (regAt a) s :: s.replies }

/-- The host's read (R50, R52). -/
def hostRead (width : AccessWidth) (a : Offset) (s : State) : Host.Outcome State Fault Refusal :=
  if s.resetAsserted then .refused .heldInReset
  else if accessOk width a then .next (regRead a s)
  else .refused .busError

/-! ### The engine and the reset input -/

/-- The engine's complete step (R20, R31): it runs the pending command; with none pending, in the fault state (R209) or in
reset it has no step, and its move passes without effect (log entry 2). -/
def engineComplete (s : State) : Host.Outcome State Fault Refusal :=
  if s.fault || s.resetAsserted then .next s
  else match s.pending with
    | none => .next s
    | some i => exec i s

/-- One move. -/
def takeEvent (e : Event) (s : State) : Host.Outcome State Fault Refusal :=
  match e with
  | .hostWrite width a v => hostWrite width a v s
  | .hostRead width a => hostRead width a s
  | .engineComplete => engineComplete s
  | .engineRound => .next (engineRound s)
  | .resetAssert => .next (hardReset { s with resetAsserted := true })
  | .resetRelease => .next { s with resetAsserted := false }

/-- No move is left: the host has performed its last access (R240). A run in the fault state has ended in it, a fault outcome
(R209); else the engine completes what is pending, by weak fairness (R239); else the block waits. -/
def runQuiet (s : State) : Host.Outcome State Fault Refusal :=
  if s.resetAsserted then .next s
  else if s.fault then .fault (.faultState s.faultCode)
  else engineComplete s

/-! ### Where an instruction stands -/

/-- `s` with the word placed where the engine takes its next command: in PENDING, accepted, with the engine's complete step
the very next move (log entry 9). A word the decoder refuses is placed as the host's next write to CMD. -/
def placeWord (v : Word) (s : State) : State :=
  match decode v with
  | .ok i =>
    { s with
        pending := some i, busy := true, round := none, fault := false, faultCode := 0, resetAsserted := false
        events := .engineComplete :: s.events }
  | .error _ =>
    { s with
        pending := none, busy := false, round := none, fault := false, faultCode := 0, resetAsserted := false
        events := .hostWrite .w32 0x00 v :: s.events }

end Sys2Proof.Machine
end

