-- ==== Sys2Proof/Machine/Step.lean ====
section
/-! DEFINITION. One step: the next move, or what happens when no move is left (10_state.md R20; log entries 1, 2). -/

namespace Sys2Proof.Machine

/-- One step of the machine. -/
def step (s : State) : Host.Outcome State Fault Refusal :=
  match s.events with
  | [] => runQuiet s
  | e :: es => takeEvent e { s with events := es }

/-- The instruction whose bits are `w` placed where `step` takes its next command (`placeWord`, log entry 9). -/
def State.withFetchWord (s : State) (nbits w : Nat) : State := placeWord (tableWord nbits w) s

end Sys2Proof.Machine
end

