-- ==== Sys2Proof/Safety.lean ====
section
/-! DEFINITION. The terms claims use: when the block is ready, the invariant of every reachable state, when a run ends well,
and the host lines and sequences of 30_encoding.md R83 and 44_oneshot.md R180 as functions of the state. -/

namespace Sys2Proof

open Sys2Proof.Machine

/-! ### Ready, safe, ended -/

/-- The block accepts register writes: FAULT = 0 and BUSY = 0 (20_memory.md R58). -/
def Ready (s : State) : Prop := s.fault = false ∧ s.busy = false

/-- What the round unit holds is the work done so far on the State the pending command hands it (10_state.md R34). -/
def RoundUnitSound (s : State) : Prop :=
  ∀ u, s.round = some u → ∃ i S, s.pending = some i ∧ permInput i s = some S ∧ u.r ≤ Config.rounds ∧
    u = RoundUnit.clocks (Config.rounds - u.r) (RoundUnit.start S)

/-- The invariant of every state the block can reach. -/
structure Inv (s : State) : Prop where
  /-- "BUSY is 1 exactly while PENDING holds a command" (R31) -/
  busy_iff_pending : s.busy = s.pending.isSome
  /-- "A command that faults in issue never becomes pending" (R77) -/
  pending_passed_issue : ∀ i, s.pending = some i → issueFault i s = none
  /-- `1 <= L <= 2^32-1` (R26) -/
  length_positive : s.l ≠ 0
  /-- a chunk is presented exactly while output bytes remain (R28, R163) -/
  valid_iff_remaining : s.outValid = true ↔ s.q ≠ 0
  /-- FAULT_CODE is 0 "meaning no fault" (R32) -/
  no_fault_code : s.fault = false → s.faultCode = 0
  /-- in the fault state the code is one of R201's four and nothing is pending (R201, R208) -/
  fault_code : s.fault = true → (∃ c, s.faultCode = causeCode c) ∧ s.pending = none
  /-- the hidden round state belongs to the pending command (R34) -/
  round_sound : RoundUnitSound s
  /-- while reset is asserted every element has its reset value (R230) -/
  held_in_reset : s.resetAsserted = true → s = hardReset s

/-- A run has ended well (70_reset_and_hazards.md R240): no move is left, and a STATUS read is accepted (reset is released, R230)
and returns BUSY = 0 and FAULT = 0. -/
def EndedWell (s : State) : Prop := s.events = [] ∧ s.resetAsserted = false ∧ s.busy = false ∧ s.fault = false

/-! ### Words by their fields -/

/-- Every field the word's opcode does not use is zero (30_encoding.md R70, R76, R79): bits 15:13 and 31:24 for every
opcode, OFF unless ABSORB_BYTE or OS_FINISH, N unless WRITE, BYTE unless ABSORB_BYTE. -/
def UnusedFieldsZero (v : Word) : Prop :=
  v.extractLsb' 13 3 = 0 ∧ v.extractLsb' 24 8 = 0 ∧
  (opField v ≠ 0x9 → opField v ≠ 0xA → offField v = 0) ∧
  (opField v ≠ 0x3 → countField v = 0) ∧
  (opField v ≠ 0x9 → byteField v = 0)

/-! ### Runs -/

/-- The commands that write A, T or L (10_state.md R37; 43_finalize_squeeze.md R166). -/
def writesContext : Instr → Bool
  | .new => true
  | .reset => true
  | .write _ => true
  | .sum => false
  | .squeeze => false
  | .wclear => false
  | .permute => false
  | .absorbBlock => false
  | .absorbByte _ _ => false
  | .osFinish _ => false

/-- One step that leaves the context alone: reset is not asserted, and no WRITE, NEW or RESET is pending. -/
def ContextStep (s t : State) : Prop :=
  step s = .next t ∧ s.events.head? ≠ some .resetAssert ∧ ∀ i, s.pending = some i → writesContext i = false

/-! ### Host sequences -/

/-- The next state of an outcome, or `s` where there is none. -/
def nextOr (s : State) : Host.Outcome State Fault Refusal → State
  | .next t => t
  | .fault _ => s
  | .refused _ => s

/-- `do MNEMONIC` (R83): write the command's word to CMD (offset 0x00), then the engine completes it. -/
def doCommand (i : Instr) (s : State) : State :=
  let s1 := regWrite 0x00 (encode i) s
  nextOr s1 (engineComplete s1)

/-- `do` for each command of a list, in order. -/
def doCommands (is : List Instr) (s : State) : State := is.foldl (fun s i => doCommand i s) s

/-- `loaddin b0..b15` (R83): the four DIN registers, bytes not given 0. -/
def loadDin (p : List Byte) (s : State) : State :=
  regWrite 0x2C (blockWord p 3) (regWrite 0x28 (blockWord p 2)
    (regWrite 0x24 (blockWord p 1) (regWrite 0x20 (blockWord p 0) s)))

/-- `loaddin p` then `do WRITE len(p)` (R83), for a piece of at most 16 bytes. -/
def writePiece (p : List Byte) (s : State) : State :=
  doCommand (.write (BitVec.ofNat 5 p.length)) (loadDin p s)

/-- The pieces of a message written one after another (R83 `hash`). -/
def writePieces (ps : List (List Byte)) (s : State) : State := ps.foldl (fun s p => writePiece p s) s

/-- `readchunk` (R83): the first `STATUS[12:8]` bytes of DOUT0..DOUT3 in lane order. -/
def readChunk (s : State) : List Byte :=
  (List.range ((readReg .status s).extractLsb' 8 5).toNat).map fun k =>
    laneByte (readReg (.dout (Fin.ofNat 4 (k / 4))) s) (k % 4)

/-- While STATUS.OUT_VALID = 1: `readchunk`, then `do SQUEEZE` (R83 `hash`), at most `n` times. The bytes read and the state
left. -/
def squeezeAll : Nat → State → List Byte × State
  | 0, s => ([], s)
  | n + 1, s =>
    if (readReg .status s).getLsbD 2 then
      let rest := squeezeAll n (doCommand .squeeze s)
      (readChunk s ++ rest.1, rest.2)
    else ([], s)

/-- `rate(S) = byte(S,0) .. byte(S,15)` (43_finalize_squeeze.md R164). -/
def rateBytes (S : SpongeState) : List Byte := (List.range Config.rate).map (stateByte S)

/-- `rate(S) || rate(P(S)) || ...`, n chunks of it (R164). -/
def squeezeStream : Nat → SpongeState → List Byte
  | 0, _ => []
  | n + 1, S => rateBytes S ++ squeezeStream n (perm S)

/-- `loaddin` and `do ABSORB_BLOCK` for c complete blocks of m (R180). -/
def oneShotBlocks : Nat → List Byte → State → State
  | 0, _, s => s
  | c + 1, m, s => oneShotBlocks c (m.drop Config.rate) (doCommand .absorbBlock (loadDin (m.take Config.rate) s))

/-- `do ABSORB_BYTE k, m[k]` for the tail bytes, from offset k (R180). -/
def oneShotTail : Nat → List Byte → State → State
  | _, [], s => s
  | k, b :: m, s => oneShotTail (k + 1) m (doCommand (.absorbByte (BitVec.ofNat 4 k) b) s)

/-- The one-shot sequence of R180 up to and including OS_FINISH. -/
def oneShot (m : List Byte) (s : State) : State :=
  let c := m.length / Config.rate
  let s1 := oneShotBlocks c m (doCommand .wclear s)
  let s2 := oneShotTail 0 (m.drop (Config.rate * c)) s1
  doCommand (.osFinish (BitVec.ofNat 4 (m.length % Config.rate))) s2

end Sys2Proof
end

