-- ==== Sys2Proof/Certificates/Slice0/Obligations.lean ====
section
/-! DEFINITION. The statements for the provers. Each docstring names the rule or section of spec/ it formalises. -/

open Sys2Proof Sys2Proof.Machine

/-! ### Encoding -/

/-- Decoding the word of a well-formed command gives the command back (30_encoding.md sections 3 and 6). -/
def Obligations.DecodeOfEncodeIsIdentity : Prop :=
  ∀ i : Instr, i.WellFormed → decode (encode i) = .ok i

/-- A word the decoder accepts is the word of the command it decodes to, which is well formed: no bit is dropped
(30_encoding.md sections 3, 5, 6). -/
def Obligations.EncodeOfDecodeIsIdentity : Prop :=
  ∀ (v : Word) (i : Instr), decode v = .ok i → encode i = v ∧ i.WellFormed

/-- R203: the words `legal` rejects, by the three reasons, and a CMD write of one raises ILLEGAL_CMD: the fault entry with code 2
and nothing else (60_exceptions.md sections 1 and 2), which STATUS shows. -/
def Obligations.IllegalWordsRaiseIllegalCmd : Prop :=
  ∀ v : Word,
    (legalWord v = false ↔
      (opField v = 0 ∨ 0xB ≤ opField v) ∨ ¬ UnusedFieldsZero v ∨ (opField v = 0x3 ∧ 16 < countField v)) ∧
    (legalWord v = false → ∀ s : State, Ready s →
      regWrite 0x00 v s = raiseFault .illegalCmd s ∧
      regWrite 0x00 v s =
        { s with fault := true, faultCode := 0x02, pending := none, busy := false, round := none } ∧
      status (regWrite 0x00 v s) = 0x00020002)

/-- R78: a word with opcode 0x0 or 0xB..0xF is refused by name and raises ILLEGAL_CMD. -/
def Obligations.ReservedOpcodeIsIllegal : Prop :=
  ∀ v : Word, opField v = 0 ∨ 0xB ≤ opField v →
    decode v = .error .reservedOpcode ∧
    ∀ s : State, Ready s → regWrite 0x00 v s = raiseFault .illegalCmd s

/-- R80: of the 2^32 words exactly 4136 are legal (one for each field-less command, 17, 4096 and 16 for the others); every
other word raises ILLEGAL_CMD. -/
def Obligations.LegalWordCount : Prop :=
  Set.ncard { v : Word | legalWord v = true } = 4136 ∧
  (∀ op : BitVec 4, op ∈ [0x1, 0x2, 0x4, 0x5, 0x6, 0x7, 0x8] →
    Set.ncard { v : Word | legalWord v = true ∧ opField v = op } = 1) ∧
  Set.ncard { v : Word | legalWord v = true ∧ opField v = 0x3 } = 17 ∧
  Set.ncard { v : Word | legalWord v = true ∧ opField v = 0x9 } = 4096 ∧
  Set.ncard { v : Word | legalWord v = true ∧ opField v = 0xA } = 16 ∧
  (∀ (v : Word) (s : State), legalWord v = false → Ready s → regWrite 0x00 v s = raiseFault .illegalCmd s)

/-- The words of 95_test_vectors.md V-E1 decode as it says. -/
def Obligations.SpecWordsDecode : Prop :=
  decode 0x00000001 = .ok .new ∧ decode 0x00001003 = .ok (.write 16) ∧
  decode 0x00ff00f9 = .ok (.absorbByte 15 0xff) ∧ decode 0x000000fa = .ok (.osFinish 15) ∧
  decode 0x00001103 = .error .countTooLarge ∧ decode 0x00000013 = .error .unusedFieldNonzero ∧
  decode 0x00000000 = .error .reservedOpcode ∧ decode 0x80000005 = .error .unusedFieldNonzero

/-! ### The permutation -/

/-- R101, R102: each column of the column layer is the SP-box of its own three words, with the rotations as rotations. -/
def Obligations.ColumnsAreIndependentSpBoxes : Prop :=
  ∀ (S : SpongeState) (i : Nat) (_ : i < 4),
    let x := S[i].rotateLeft 24
    let y := S[i + 4].rotateLeft 9
    let z := S[i + 8]
    (columns S)[i + 8] = x ^^^ (z <<< 1) ^^^ ((y &&& z) <<< 2) ∧
    (columns S)[i + 4] = y ^^^ x ^^^ ((x ||| z) <<< 1) ∧
    (columns S)[i] = z ^^^ y ^^^ ((x &&& y) <<< 3)

/-- R103, R104: the linear layer of every round, and the round constants. -/
def Obligations.LinearLayerAndConstants : Prop :=
  (∀ (r : Nat) (S : SpongeState), 1 ≤ r → r ≤ 24 →
    linear r S =
      if r % 4 = 0 then
        #v[S[1] ^^^ (0x9e377900 ||| BitVec.ofNat 32 r), S[0], S[3], S[2], S[4], S[5], S[6], S[7], S[8], S[9], S[10], S[11]]
      else if r % 4 = 2 then #v[S[2], S[3], S[0], S[1], S[4], S[5], S[6], S[7], S[8], S[9], S[10], S[11]]
      else S) ∧
  (∀ r : Nat, r ≤ 24 →
    roundConstant r = 0x9e377900 ^^^ BitVec.ofNat 32 r ∧ roundConstant r = 0x9e377900 + BitVec.ofNat 32 r) ∧
  [24, 20, 16, 12, 8, 4].map roundConstant =
    [0x9e377918, 0x9e377914, 0x9e377910, 0x9e37790c, 0x9e377908, 0x9e377904]

/-- R105, R106: P is the rounds 24 down to 1, each the column layer and then the linear layer. -/
def Obligations.PermutationIsTheDescendingRounds : Prop :=
  ∀ S : SpongeState,
    perm S = [24, 23, 22, 21, 20, 19, 18, 17, 16, 15, 14, 13, 12, 11, 10, 9, 8, 7, 6, 5, 4, 3, 2, 1].foldl
      (fun S r => linear r (columns S)) S

/-- P is a bijection of the 384-bit states, and so is every round (40_permutation.md section 4). -/
def Obligations.PermutationIsBijective : Prop :=
  Function.Bijective perm ∧ ∀ r : Nat, 1 ≤ r → r ≤ 24 → Function.Bijective (spongeRound r)

/-- The round unit, started on S and clocked with any number d of rounds a cycle that divides 24, counts down from 24 and is
done after 24 / d cycles with P(S) (40_permutation.md sections 1 and 4; 10_state.md section 7). -/
def Obligations.RoundUnitComputesPermutation : Prop :=
  ∀ (S : SpongeState) (d : Nat), d ∣ 24 →
    ((RoundUnit.clocks d)^[24 / d] (RoundUnit.start S)).done = true ∧
    ((RoundUnit.clocks d)^[24 / d] (RoundUnit.start S)).st = perm S ∧
    ∀ k : Nat, k < 24 / d → ((RoundUnit.clocks d)^[k] (RoundUnit.start S)).r = 24 - d * k ∧
      ((RoundUnit.clocks d)^[k] (RoundUnit.start S)).done = false

/-- What the round unit is given for a command is the State the command's own effect permutes, and a command that gives it
nothing leaves every State's capacity alone or cleared (40_permutation.md section 1; the tie of `permInput` to the commands is
the model's, log entry 3). -/
def Obligations.RoundUnitInputIsWhatTheCommandPermutes : Prop :=
  ∀ (i : Instr) (s t : State), s.fault = false → issueFault i s = none → exec i s = .next t →
    match permInput i s with
    | some S =>
      match i with
      | .write n =>
        t.a = xorBytes (perm S) 0 ((dinBytes s.din n.toNat).drop (16 - pendingBytes s))
      | .sum => t.f = perm S
      | .squeeze => t.f = perm S
      | .permute => t.w = perm S
      | .absorbBlock => t.w = perm S
      | .osFinish _ => t.w = perm S ∧ t.f = perm S
      | _ => False
    | none =>
      (∀ (j : Nat) (_ : j < 12), 4 ≤ j →
        (t.a[j] = s.a[j] ∨ t.a[j] = 0) ∧ (t.w[j] = s.w[j] ∨ t.w[j] = 0) ∧ t.f[j] = s.f[j])

/-! ### Byte views and absorbers -/

/-- R23, R24: byte o is lane o mod 4 of word o / 4, and `xor_byte` XORs exactly that byte: every other byte and word is
unchanged. -/
def Obligations.XorByteChangesOneByte : Prop :=
  (∀ (S : SpongeState) (k : Nat) (_ : k < 48), stateByte S k = (S[k / 4] >>> (8 * (k % 4))).setWidth 8) ∧
  ∀ (S : SpongeState) (o : Nat) (v : Byte), o < 16 →
    (∀ k : Nat, k < 48 → stateByte (xorByte S o v) k = if k = o then stateByte S k ^^^ v else stateByte S k) ∧
    (∀ (j : Nat) (_ : j < 12),
      (xorByte S o v)[j] = if j = o / 4 then S[j] ^^^ (v.setWidth 32 <<< (8 * (o % 4))) else S[j])

/-- On the 384-bit bus word i is bits [32i+31 : 32i] and byte b is bits [8b+7 : 8b] (00_scope.md section 5). -/
def Obligations.BusPacking : Prop :=
  ∀ S : SpongeState,
    (∀ (i : Nat) (_ : i < 12), (stateBus S).extractLsb' (32 * i) 32 = S[i]) ∧
    (∀ b : Nat, b < 48 → (stateBus S).extractLsb' (8 * b) 8 = stateByte S b)

/-- R120: the byte_lane_multiplexer's port-level function is `xor_byte` on the rate, with words 4..11 passed through. -/
def Obligations.LaneMultiplexerIsXorByte : Prop :=
  ∀ (S : SpongeState) (off : BitVec 4) (val : Byte),
    rateBus (xorByte S off.toNat val) = rateBus S ^^^ (val.setWidth 128 <<< (8 * off.toNat)) ∧
    laneMultiplexer (rateBus S) off val = rateBus (xorByte S off.toNat val) ∧
    (∀ k : Nat, k < 16 → (rateBus S).extractLsb' (8 * k) 8 = stateByte S k) ∧
    ∀ (j : Nat) (_ : j < 12), 4 ≤ j → (xorByte S off.toNat val)[j] = S[j]

/-- R122: absorbing a block XORs its four little-endian words into words 0..3, which is sixteen `xor_byte`s, and runs P
once. -/
def Obligations.BlockAbsorbIsSixteenByteXors : Prop :=
  ∀ (S : SpongeState) (m : List Byte), m.length = 16 →
    absorbBlock S m = perm (xorBytes S 0 m) ∧
    (∀ (j : Nat) (_ : j < 4), (xorBlock S m)[j] = S[j] ^^^
      ((m.getD (4 * j) 0).setWidth 32 ||| ((m.getD (4 * j + 1) 0).setWidth 32 <<< 8) |||
        ((m.getD (4 * j + 2) 0).setWidth 32 <<< 16) ||| ((m.getD (4 * j + 3) 0).setWidth 32 <<< 24))) ∧
    (∀ (j : Nat) (_ : j < 12), 4 ≤ j → (xorBlock S m)[j] = S[j]) ∧
    absorbBlock S m = perm (xorBlock S m)

/-- R160: pad XORs 0x1f at offset t and 0x80 at offset 15, both always (0x9f where they coincide), and touches nothing
else. -/
def Obligations.PadTouchesTwoBytes : Prop :=
  ∀ (S : SpongeState) (t : Nat), t ≤ 15 →
    ∀ k : Nat, k < 48 → stateByte (pad S t) k =
      stateByte S k ^^^ (if k = t then 0x1f else 0) ^^^ (if k = 15 then 0x80 else 0)

/-! ### Commands: what each one completes with, and its frame -/

/-- PERMUTE completes with `W <- P(W)` and nothing else but BUSY and PENDING cleared (40_permutation.md section 5). -/
def Obligations.PermuteCompletes : Prop :=
  ∀ s : State, s.fault = false →
    exec .permute s = .next { s with w := perm s.w, busy := false, pending := none, round := none }

/-- WCLEAR completes with W = 0 and nothing else changed (41_absorbers.md section 3). -/
def Obligations.WclearCompletes : Prop :=
  ∀ s : State, s.fault = false →
    exec .wclear s =
      .next { s with w := #v[0, 0, 0, 0, 0, 0, 0, 0, 0, 0, 0, 0], busy := false, pending := none, round := none }

/-- ABSORB_BLOCK completes with `absorb_block(W, m)` for m the 16 bytes of DIN, and nothing else changed (41_absorbers.md
section 4). -/
def Obligations.AbsorbBlockCompletes : Prop :=
  ∀ s : State, s.fault = false →
    exec .absorbBlock s =
      .next { s with w := absorbBlock s.w (dinBytes s.din 16), busy := false, pending := none, round := none }

/-- ABSORB_BYTE completes with byte OFF of W XORed by BYTE, every other byte of W and everything else unchanged
(41_absorbers.md section 5). -/
def Obligations.AbsorbByteCompletes : Prop :=
  ∀ (off : BitVec 4) (byte : Byte) (s : State), s.fault = false →
    ∃ W : SpongeState,
      exec (.absorbByte off byte) s = .next { s with w := W, busy := false, pending := none, round := none } ∧
      ∀ k : Nat, k < 48 →
        stateByte W k = if k = off.toNat then stateByte s.w k ^^^ byte else stateByte s.w k

/-- NEW with ARG <> 0 completes with L = ARG, A = 0, T = 0 and nothing else changed (42_streaming_write.md section 2). -/
def Obligations.NewCompletes : Prop :=
  ∀ s : State, s.fault = false → s.arg ≠ 0 →
    exec .new s = .next { s with
      l := s.arg, a := #v[0, 0, 0, 0, 0, 0, 0, 0, 0, 0, 0, 0], t := 0
      busy := false, pending := none, round := none }

/-- R202: a CMD write that issues NEW while ARG = 0 raises OUTLEN_ZERO at once, before the command becomes pending, and
changes nothing but the fault entry; the sticky fault state shows code 1. -/
def Obligations.NewWithArgZeroFaults : Prop :=
  ∀ s : State, Ready s → s.arg = 0 →
    regWrite 0x00 0x00000001 s =
      { s with fault := true, faultCode := 0x01, pending := none, busy := false, round := none } ∧
    status (regWrite 0x00 0x00000001 s) = 0x00010002 ∧
    ∀ (a : Offset) (v : Word),
      regWrite a v (regWrite 0x00 0x00000001 s) = regWrite 0x00 0x00000001 s

/-- RESET completes with A = 0, T = 0 and nothing else changed, L least of all (42_streaming_write.md section 3). -/
def Obligations.ResetCompletes : Prop :=
  ∀ s : State, s.fault = false →
    exec .reset s = .next { s with
      a := #v[0, 0, 0, 0, 0, 0, 0, 0, 0, 0, 0, 0], t := 0, busy := false, pending := none, round := none }

/-- R145: WRITE N completes with A and T the left fold of `absorb_byte` over the first N bytes of DIN, and nothing else
changed. -/
def Obligations.WriteCompletesAsByteFold : Prop :=
  ∀ (n : BitVec 5) (s : State), n ≤ 16 → s.fault = false →
    exec (.write n) s = .next { s with
      a := (absorbFold s.a s.t (dinBytes s.din n.toNat)).1
      t := (absorbFold s.a s.t (dinBytes s.din n.toNat)).2
      busy := false, pending := none, round := none } ∧
    ∀ (A : SpongeState) (T : BitVec 64) (b : Byte),
      absorbFold A T [b] =
        (if (T + 1).toNat % 16 = 0 then perm (xorByte A (T.toNat % 16) b) else xorByte A (T.toNat % 16) b, T + 1)

/-- The corner cases of WRITE: N = 0; a full block into an empty rate; no boundary reached; a boundary crossed; bytes of DIN at
index N and above ignored (42_streaming_write.md section 4). -/
def Obligations.WriteCornerCases : Prop :=
  ∀ (n : BitVec 5) (s t : State), n ≤ 16 → s.fault = false → exec (.write n) s = .next t →
    let o := s.t.toNat % 16
    let m := dinBytes s.din n.toNat
    t.t = s.t + n.setWidth 64 ∧
    (n = 0 → t.a = s.a ∧ t.t = s.t) ∧
    (o = 0 → n = 16 → t.a = absorbBlock s.a m ∧ t.t.toNat % 16 = 0) ∧
    (o + n.toNat < 16 → t.a = xorBytes s.a o m) ∧
    (o ≠ 0 → 16 ≤ o + n.toNat → t.a = xorBytes (perm (xorBytes s.a o (m.take (16 - o)))) 0 (m.drop (16 - o))) ∧
    ∀ D : Vector Word 4, (∀ k : Nat, k < n.toNat → dinByte D k = dinByte s.din k) →
      ∃ u : State, exec (.write n) { s with din := D } = .next u ∧ u.a = t.a ∧ u.t = t.t

/-- The context after a sequence of WRITEs depends only on the concatenation of their bytes (42_streaming_write.md section 4; a WRITE
of the sequence is `loaddin` and `do`, in the reading of log entry 16). -/
def Obligations.ChunkInvariance : Prop :=
  ∀ (s : State) (ps qs : List (List Byte)), Ready s → s.resetAsserted = false →
    (∀ p ∈ ps, p.length ≤ 16) → (∀ q ∈ qs, q.length ≤ 16) → ps.flatten = qs.flatten →
    (writePieces ps s).a = (writePieces qs s).a ∧ (writePieces ps s).t = (writePieces qs s).t ∧
    (writePieces ps s).a = (absorbFold s.a s.t ps.flatten).1 ∧
    (writePieces ps s).t = s.t + BitVec.ofNat 64 ps.flatten.length

/-- WRITE changes the capacity A[4..11] only inside P: short of the block boundary it is unchanged; else it is that of P of A with
the bytes that fill the block XORed in, a State whose own capacity is A's, and the one the round unit is handed
(42_streaming_write.md section 4; 41_absorbers.md section 1; that tie is the model's, log entry 3). -/
def Obligations.WriteMovesCapacityOnlyThroughP : Prop :=
  ∀ (n : BitVec 5) (s t : State), n ≤ 16 → s.fault = false → exec (.write n) s = .next t →
    let o := s.t.toNat % 16
    let S := xorBytes s.a o ((dinBytes s.din n.toNat).take (16 - o))
    (∀ (j : Nat) (_ : j < 12), 4 ≤ j → S[j] = s.a[j]) ∧
    if o + n.toNat < 16 then
      permInput (.write n) s = none ∧ ∀ (j : Nat) (_ : j < 12), 4 ≤ j → t.a[j] = s.a[j]
    else
      permInput (.write n) s = some S ∧ ∀ (j : Nat) (_ : j < 12), 4 ≤ j → t.a[j] = (perm S)[j]

/-- SUM completes with F = P(pad(A, T mod 16)), Q = L, OUT_VALID = 1 and nothing else changed (43_finalize_squeeze.md
section 2). -/
def Obligations.SumCompletes : Prop :=
  ∀ s : State, s.fault = false →
    exec .sum s = .next { s with
      f := perm (xorByte (xorByte s.a (s.t.toNat % 16) 0x1f) 15 0x80), q := s.l, outValid := true
      busy := false, pending := none, round := none }

/-- SQUEEZE with OUT_VALID = 1 completes: with Q > 16 the next chunk, else the end of the output with no permutation
(43_finalize_squeeze.md section 4). -/
def Obligations.SqueezeCompletes : Prop :=
  ∀ s : State, s.fault = false → s.outValid = true →
    exec .squeeze s = .next (
      if 16 < s.q.toNat then
        { s with q := s.q - 16, f := perm s.f, busy := false, pending := none, round := none }
      else { s with q := 0, outValid := false, busy := false, pending := none, round := none })

/-- R204: a CMD write that issues SQUEEZE while OUT_VALID = 0 raises SQUEEZE_EMPTY and changes nothing but the fault
entry. -/
def Obligations.SqueezeEmptyFaults : Prop :=
  ∀ s : State, Ready s → s.outValid = false →
    regWrite 0x00 0x00000005 s =
      { s with fault := true, faultCode := 0x03, pending := none, busy := false, round := none } ∧
    status (regWrite 0x00 0x00000005 s) = 0x00030002

/-- OS_FINISH completes with W = F = P(pad(W, OFF)), Q = 32 whatever L is, OUT_VALID = 1 and nothing else changed
(44_oneshot.md section 2). -/
def Obligations.OsFinishCompletes : Prop :=
  ∀ (off : BitVec 4) (s : State), s.fault = false →
    exec (.osFinish off) s = .next { s with
      w := perm (xorByte (xorByte s.w off.toNat 0x1f) 15 0x80)
      f := perm (xorByte (xorByte s.w off.toNat 0x1f) 15 0x80)
      q := 32, outValid := true, busy := false, pending := none, round := none }

/-- R37: the access matrix. A command writes only the elements marked "w" in its row; no command writes DIN or ARG; what it
writes depends only on the elements its row marks "r"; and issuing a command, which is where it may fault, writes none of
them. -/
def Obligations.AccessMatrix : Prop :=
  (∀ (i : Instr) (s t : State), exec i s = .next t →
    (t.din = s.din ∧ t.arg = s.arg) ∧
    (i ∉ [.new, .reset] → (∀ n, i ≠ .write n) → t.a = s.a ∧ t.t = s.t) ∧
    (i ≠ .new → t.l = s.l) ∧
    (i ∉ [.wclear, .permute, .absorbBlock] → (∀ o b, i ≠ .absorbByte o b) → (∀ o, i ≠ .osFinish o) → t.w = s.w) ∧
    (i ∉ [.sum, .squeeze] → (∀ o, i ≠ .osFinish o) → t.f = s.f ∧ t.q = s.q ∧ t.outValid = s.outValid) ∧
    (s.fault = false → t.fault = true →
      t.a = s.a ∧ t.t = s.t ∧ t.l = s.l ∧ t.w = s.w ∧ t.f = s.f ∧ t.q = s.q ∧ t.outValid = s.outValid)) ∧
  (∀ (i : Instr) (s s' t t' : State), s.fault = false → s'.fault = false →
    issueFault i s = none → issueFault i s' = none → exec i s = .next t → exec i s' = .next t' →
    match i with
    | .new => s.arg = s'.arg → t.a = t'.a ∧ t.t = t'.t ∧ t.l = t'.l
    | .reset => t.a = t'.a ∧ t.t = t'.t
    | .write _ => s.a = s'.a → s.t = s'.t → s.din = s'.din → t.a = t'.a ∧ t.t = t'.t
    | .sum => s.a = s'.a → s.t = s'.t → s.l = s'.l → t.f = t'.f ∧ t.q = t'.q ∧ t.outValid = t'.outValid
    | .squeeze => s.f = s'.f → s.q = s'.q → s.outValid = s'.outValid →
        t.f = t'.f ∧ t.q = t'.q ∧ t.outValid = t'.outValid
    | .wclear => t.w = t'.w
    | .permute => s.w = s'.w → t.w = t'.w
    | .absorbBlock => s.w = s'.w → s.din = s'.din → t.w = t'.w
    | .absorbByte _ _ => s.w = s'.w → t.w = t'.w
    | .osFinish _ => s.w = s'.w → t.w = t'.w ∧ t.f = t'.f ∧ t.q = t'.q ∧ t.outValid = t'.outValid) ∧
  (∀ (v : Word) (s : State), Ready s →
    let t := regWrite 0x00 v s
    t.a = s.a ∧ t.t = s.t ∧ t.l = s.l ∧ t.w = s.w ∧ t.f = s.f ∧ t.q = s.q ∧ t.outValid = s.outValid ∧
      t.din = s.din ∧ t.arg = s.arg)

/-- R206: a step that faults is the register write that causes the fault; the write stores nothing and leaves nothing pending,
and with BUSY = 0 its only effect is the fault entry; completing a legal pending command raises no fault. -/
def Obligations.EveryFaultIsAtItsWrite : Prop :=
  (∀ s t : State, Inv s → s.fault = false → step s = .next t → t.fault = true →
    ∃ (a : Offset) (v : Word) (es : List Event), s.events = .hostWrite .w32 a v :: es ∧
      a.toNat % 4 = 0 ∧ t.din = s.din ∧ t.arg = s.arg ∧ t.pending = none ∧
      (s.busy = false → ∃ c : FaultCause, t = raiseFault c { s with events := es })) ∧
  (∀ (s : State) (i : Instr), Inv s → s.pending = some i →
    ∃ t : State, exec i s = .next t ∧ t.fault = false ∧ t.faultCode = 0 ∧ t.pending = none ∧ t.busy = false)

/-- A command's own issue checks guard its meaning too: in a state no run reaches, where a check fails at completion, it raises
that fault and changes nothing else, a WRITE count over 16 included; and in the fault state no command does anything (the model's
choice, log entry 8; 60_exceptions.md sections 2 and 3). -/
def Obligations.FailedChecksGuardEveryCommand : Prop :=
  ∀ (i : Instr) (s : State),
    (s.fault = true → exec i s = .next s) ∧
    (s.fault = false → i.wellFormed = false → exec i s = .next (raiseFault .illegalCmd s)) ∧
    (s.fault = false → i = .new → s.arg = 0 → exec i s = .next (raiseFault .outlenZero s)) ∧
    (s.fault = false → i = .squeeze → s.outValid = false → exec i s = .next (raiseFault .squeezeEmpty s))

/-! ### The register window -/

/-- R58: an aligned 32-bit write, by cases: ignored once faulted, BUSY_VIOLATION while busy, else the register at the offset,
and no effect at a read-only or reserved offset. -/
def Obligations.RegWriteCases : Prop :=
  ∀ (s : State) (a : Offset) (v : Word) (es : List Event), s.resetAsserted = false → a.toNat % 4 = 0 →
    s.events = .hostWrite .w32 a v :: es →
    ∃ t : State, step s = .next t ∧ t.events = es ∧
      (s.fault = true → t = { s with events := es }) ∧
      (s.fault = false → s.busy = true →
        t.fault = true ∧ t.faultCode = 0x04 ∧ t.pending = none ∧ t.busy = false) ∧
      (s.fault = false → s.busy = false →
        (a = 0x00 → t = issue v { s with events := es }) ∧
        (a = 0x08 → t = { s with events := es, arg := v }) ∧
        (∀ (j : Nat) (_ : j < 4), a = BitVec.ofNat 8 (0x20 + 4 * j) →
          t = { s with events := es, din := s.din.set j v }) ∧
        (∀ (i : Nat) (_ : i < 12), a = BitVec.ofNat 8 (0x40 + 4 * i) →
          t = { s with events := es, w := s.w.set i v }) ∧
        (a ≠ 0x00 → a ≠ 0x08 → ¬ (0x20 ≤ a.toNat ∧ a.toNat ≤ 0x2C) → ¬ (0x40 ≤ a.toNat ∧ a.toNat ≤ 0x6C) →
          t = { s with events := es }))

/-- After a write to any register but CMD, a read of that register returns the value if it is ARG, DIN or W, and every other
register reads as before (20_memory.md sections 1, 2 and 4). -/
def Obligations.WriteThenRead : Prop :=
  ∀ (s : State) (a b : Offset) (v : Word), Ready s → a.toNat % 4 = 0 → b.toNat % 4 = 0 → a ≠ 0x00 →
    readReg (regAt b) (regWrite a v s) =
      if a = b ∧ (a = 0x08 ∨ (0x20 ≤ a.toNat ∧ a.toNat ≤ 0x2C) ∨ (0x40 ≤ a.toNat ∧ a.toNat ≤ 0x6C)) then v
      else readReg (regAt b) s

/-- R53: reserved offsets and CMD read 0; writes to reserved offsets and to read-only registers have no effect. -/
def Obligations.ReservedAndReadOnlyOffsets : Prop :=
  ∀ (s : State) (a : Offset) (v : Word), Ready s → a.toNat % 4 = 0 →
    let reserved := a = 0x18 ∨ a = 0x1C ∨ 0x70 ≤ a.toNat
    let readOnly := a = 0x04 ∨ a = 0x0C ∨ a = 0x10 ∨ a = 0x14 ∨ (0x30 ≤ a.toNat ∧ a.toNat ≤ 0x3C)
    (reserved ∨ readOnly → regWrite a v s = s) ∧
    (reserved ∨ a = 0x00 → regRead a s = { s with replies := 0 :: s.replies })

/-- R59: what an aligned 32-bit read returns, and that it changes nothing but what the host has read (R55): STATUS always
exact; while BUSY or FAULT a free value elsewhere, of which nothing is said; else the register at the offset. -/
def Obligations.RegReadCases : Prop :=
  ∀ (s : State) (a : Offset) (es : List Event), s.resetAsserted = false → a.toNat % 4 = 0 →
    s.events = .hostRead .w32 a :: es →
    ∃ (v : Word) (k : Nat), step s = .next { s with events := es, replies := v :: s.replies, freeIx := k } ∧
      (a = 0x04 → v = status s) ∧
      (s.fault = false → s.busy = false →
        (a = 0x00 → v = 0) ∧ (a = 0x08 → v = s.arg) ∧ (a = 0x0C → v = s.l) ∧ (a = 0x10 → v = 16) ∧
        (a = 0x14 → v = s.q) ∧
        (∀ (j : Nat) (_ : j < 4), a = BitVec.ofNat 8 (0x20 + 4 * j) → v = s.din[j]) ∧
        (∀ j : Nat, j < 4 → a = BitVec.ofNat 8 (0x30 + 4 * j) → v = dout s j) ∧
        (∀ (i : Nat) (_ : i < 12), a = BitVec.ofNat 8 (0x40 + 4 * i) → v = s.w[i]) ∧
        (a = 0x18 ∨ a = 0x1C ∨ 0x70 ≤ a.toNat → v = 0))

/-- R33: every field of STATUS, and that STATUS reads so at every moment, while BUSY and in the fault state too, with no side
effect. -/
def Obligations.StatusLayout : Prop :=
  ∀ s : State,
    (s.fault = false →
      (status s).getLsbD 0 = s.busy ∧ (status s).getLsbD 1 = false ∧ (status s).getLsbD 2 = s.outValid ∧
      (status s).extractLsb' 3 5 = 0 ∧
      ((status s).extractLsb' 8 5).toNat = (if s.outValid then min 16 s.q.toNat else 0) ∧
      (status s).extractLsb' 13 3 = 0 ∧ (status s).extractLsb' 16 8 = 0 ∧ (status s).extractLsb' 24 8 = 0) ∧
    (s.fault = true → status s = (s.faultCode.setWidth 32 <<< 16) ||| 0x00000002) ∧
    (s.resetAsserted = false → ∀ es : List Event, s.events = .hostRead .w32 0x04 :: es →
      step s = .next { s with events := es, replies := status s :: s.replies })

/-- R162: DOUT register j shows bytes 4j..4j+3 of F in lane order, 0 at index OUT_BYTES and above, and 0 with OUT_VALID = 0;
reading it has no side effect. -/
def Obligations.DoutShowsTheChunk : Prop :=
  ∀ (s : State) (j k : Nat), j < 4 → k < 4 →
    laneByte (dout s j) k =
      (if s.outValid = true ∧ 4 * j + k < min 16 s.q.toNat then stateByte s.f (4 * j + k) else 0) ∧
    (Ready s → s.resetAsserted = false → ∀ es : List Event,
      s.events = .hostRead .w32 (BitVec.ofNat 8 (0x30 + 4 * j)) :: es →
      step s = .next { s with events := es, replies := dout s j :: s.replies })

/-- Any register write while BUSY = 1 raises BUSY_VIOLATION; nothing is stored; the abandoned command's effect happened or did
not, and it is not said which (60_exceptions.md sections 1 and 2). That it happened as a whole or not at all is read from
20_memory.md section 5, and that it is left open for L too, on its own, is the model's choice (both log entry 7). -/
def Obligations.BusyWriteFaults : Prop :=
  ∀ (s : State) (a : Offset) (v : Word) (es : List Event), s.resetAsserted = false → s.fault = false → s.busy = true →
    a.toNat % 4 = 0 → s.events = .hostWrite .w32 a v :: es →
    ∃ t : State, step s = .next t ∧ t.fault = true ∧ t.faultCode = 0x04 ∧ t.pending = none ∧ t.busy = false ∧
      t.din = s.din ∧ t.arg = s.arg ∧ status t = 0x00040002 ∧
      ((t.a = s.a ∧ t.t = s.t ∧ t.w = s.w ∧ t.f = s.f ∧ t.q = s.q ∧ t.outValid = s.outValid ∧ t.l = s.l) ∨
        ∃ (i : Instr) (u : State), s.pending = some i ∧ exec i s = .next u ∧
          t.a = u.a ∧ t.t = u.t ∧ t.w = u.w ∧ t.f = u.f ∧ t.q = u.q ∧ t.outValid = u.outValid ∧
          (t.l = s.l ∨ t.l = u.l))

/-- R207: the checks of one register write, in order: already faulted, busy, then for a CMD write illegal word, OUTLEN_ZERO,
SQUEEZE_EMPTY; any other write raises none; a word that passes them all becomes pending with its fields, and BUSY is 1 (issue,
30_encoding.md section 4). -/
def Obligations.RegWriteChecksInOrder : Prop :=
  ∀ (s : State) (a : Offset) (v : Word) (es : List Event), s.resetAsserted = false → a.toNat % 4 = 0 →
    s.events = .hostWrite .w32 a v :: es →
    ∃ t : State, step s = .next t ∧
      if s.fault = true then t = { s with events := es }
      else if s.busy = true then t.fault = true ∧ t.faultCode = 0x04 ∧ t.pending = none ∧ t.busy = false
      else if a ≠ 0x00 then t.fault = false ∧ t.faultCode = s.faultCode ∧ t.pending = s.pending ∧ t.busy = false
      else if legalWord v = false then t = raiseFault .illegalCmd { s with events := es }
      else if opField v = 0x1 ∧ s.arg = 0 then t = raiseFault .outlenZero { s with events := es }
      else if opField v = 0x5 ∧ s.outValid = false then t = raiseFault .squeezeEmpty { s with events := es }
      else ∃ i : Instr, t = { s with events := es, pending := some i, busy := true } ∧ encode i = v ∧
        i.opcode = opField v ∧ (∀ n, i = .write n → n = countField v) ∧
        (∀ o b, i = .absorbByte o b → o = offField v ∧ b = byteField v) ∧ (∀ o, i = .osFinish o → o = offField v)

/-- Only hardware reset leaves the fault state. No other move changes the block: writes are ignored and the code of the first
fault is kept, STATUS reads exactly that code, the engine has no step (60_exceptions.md section 3). That a run with no move left
there answers the fault outcome, and the steps before it do not, is the model's reading (log entry 10). -/
def Obligations.FaultStateIsSticky : Prop :=
  ∀ s : State, s.fault = true → s.resetAsserted = false →
    (s.events = [] → step s = .fault (.faultState s.faultCode)) ∧
    (∀ (e : Event) (es : List Event) (t : State), s.events = e :: es → step s = .next t →
      (e ≠ .resetAssert → ∃ (r : List Word) (k : Nat), t = { s with events := es, replies := r, freeIx := k }) ∧
      (e = .resetAssert → t.fault = false ∧ t.faultCode = 0) ∧
      (e = .hostRead .w32 0x04 → t.replies = ((s.faultCode.setWidth 32 <<< 16) ||| 0x00000002) :: s.replies))

/-- R52: an access that is not an aligned 32-bit access is refused. -/
def Obligations.UnacceptedAccessIsRefused : Prop :=
  ∀ (s : State) (width : AccessWidth) (a : Offset) (v : Word) (es : List Event),
    s.events = .hostWrite width a v :: es ∨ s.events = .hostRead width a :: es → s.resetAsserted = false →
    (width ≠ .w32 ∨ a.toNat % 4 ≠ 0 → step s = .refused .busError) ∧
    (width = .w32 → a.toNat % 4 = 0 → ∃ t : State, step s = .next t)

/-! ### Reset -/

/-- R36: asserting reset, in any state, sets every element to its reset value; so does `State.reset`. -/
def Obligations.ResetSetsEveryElement : Prop :=
  (∀ (s : State) (es : List Event), s.events = .resetAssert :: es →
    ∃ t : State, step s = .next t ∧
      t.a = #v[0, 0, 0, 0, 0, 0, 0, 0, 0, 0, 0, 0] ∧ t.t = 0 ∧ t.l = 32 ∧
      t.w = #v[0, 0, 0, 0, 0, 0, 0, 0, 0, 0, 0, 0] ∧ t.f = #v[0, 0, 0, 0, 0, 0, 0, 0, 0, 0, 0, 0] ∧
      t.q = 0 ∧ t.outValid = false ∧ t.din = #v[0, 0, 0, 0] ∧ t.arg = 0 ∧ t.busy = false ∧ t.pending = none ∧
      t.fault = false ∧ t.faultCode = 0) ∧
  (State.reset.a = #v[0, 0, 0, 0, 0, 0, 0, 0, 0, 0, 0, 0] ∧ State.reset.t = 0 ∧ State.reset.l = 32 ∧
    State.reset.w = #v[0, 0, 0, 0, 0, 0, 0, 0, 0, 0, 0, 0] ∧ State.reset.f = #v[0, 0, 0, 0, 0, 0, 0, 0, 0, 0, 0, 0] ∧
    State.reset.q = 0 ∧ State.reset.outValid = false ∧ State.reset.din = #v[0, 0, 0, 0] ∧ State.reset.arg = 0 ∧
    State.reset.busy = false ∧ State.reset.pending = none ∧ State.reset.fault = false ∧ State.reset.faultCode = 0)

/-! ### Stepping -/

/-- A step runs the pending command: the engine's complete step is `exec` of it, when the move is the engine's or no move is left
(10_state.md sections 1 and 6; the order of moves is the model's, log entries 1 and 2). -/
def Obligations.StepRunsThePendingCommand : Prop :=
  ∀ (s : State) (i : Instr), s.fault = false → s.resetAsserted = false → s.pending = some i →
    (s.events = [] → step s = exec i s) ∧
    (∀ es : List Event, s.events = .engineComplete :: es → step s = exec i { s with events := es })

/-- The command a placed word decodes to is the one the very next step runs (30_encoding.md section 4; where a word is placed is
the model's choice, log entry 9). -/
def Obligations.PlacedWordRunsNext : Prop :=
  ∀ (s : State) (nbits w : Nat) (i : Instr), decodeTableWord nbits w = some i →
    step (s.withFetchWord nbits w) =
      exec i { s with
        pending := some i, busy := true, round := none, fault := false, faultCode := 0, resetAsserted := false }

/-- Writing a well-formed command's word to CMD on a ready block and then giving the engine its step runs exactly that command,
its operands read at completion (30_encoding.md section 4; 20_memory.md section 5). -/
def Obligations.IssueThenComplete : Prop :=
  ∀ (s : State) (i : Instr) (es : List Event), Ready s → s.resetAsserted = false → i.WellFormed →
    issueFault i s = none → s.events = .hostWrite .w32 0x00 (encode i) :: .engineComplete :: es →
    ∃ t : State, step s = .next t ∧ t = { s with events := .engineComplete :: es, pending := some i, busy := true } ∧
      step t = exec i { s with events := es, pending := some i, busy := true }

/-- The invariant holds at reset (10_state.md sections 5, 6 and 8; its clause on the hidden round state rests on log entry 3). -/
def Obligations.InvHoldsAtReset : Prop := Inv State.reset

/-- Every step keeps the invariant: BUSY exactly while PENDING holds a command that passed its issue checks, L >= 1, a chunk
presented exactly while bytes remain, FAULT_CODE as R201 lists, the hidden round state the pending command's own, every element
at its reset value while reset is asserted (10_state.md sections 4 to 8; 60_exceptions.md sections 1 and 2). Which State the
pending command hands the round unit is the model's tie (`permInput`, log entry 3). -/
def Obligations.StepKeepsInv : Prop :=
  ∀ s t : State, Inv s → step s = .next t → Inv t

/-- With no host move left a pending command completes in one step, and the block is then idle and not faulted
(70_reset_and_hazards.md sections 4 and 5; weak fairness of the engine is the model's reading, log entry 2). -/
def Obligations.PendingCommandCompletes : Prop :=
  ∀ s : State, Inv s → s.resetAsserted = false → s.busy = true → s.events = [] →
    ∃ t : State, step s = .next t ∧ EndedWell t ∧ step t = .next t

/-- The hidden round counter and intermediate State are invisible: two states that differ only in them step alike and stay
alike in everything else, whatever the move; and the engine's round changes nothing else (10_state.md section 7;
40_permutation.md section 4). -/
def Obligations.HiddenRoundIsInvisible : Prop :=
  ∀ (s : State) (u : Option RoundUnit),
    (∀ t, step s = .next t → ∃ u', step { s with round := u } = .next { t with round := u' }) ∧
    (∀ r, step s = .fault r → step { s with round := u } = .fault r) ∧
    (∀ r, step s = .refused r → step { s with round := u } = .refused r) ∧
    (∀ es : List Event, s.events = .engineRound :: es → ∃ u', step s = .next { s with events := es, round := u' })

/-- The streaming context's A and T, and F beyond the presented bytes, are not readable: a read returns the same whatever they
are (10_state.md sections 2 to 5). -/
def Obligations.ContextIsUnreadable : Prop :=
  ∀ (s : State) (A F : SpongeState) (T : BitVec 64) (a : Offset),
    (∀ k : Nat, k < outBytes s → stateByte F k = stateByte s.f k) →
    regRead a { s with a := A, t := T, f := F } = { regRead a s with a := A, t := T, f := F }

/-- Who writes what, over every step but the assertion of reset: A and T only NEW, RESET, WRITE; L only NEW; F, Q and OUT_VALID only
SUM, OS_FINISH, SQUEEZE; W only WCLEAR, PERMUTE, ABSORB_BLOCK, ABSORB_BYTE, OS_FINISH, and the host's own write of one word of it;
DIN and ARG only the host's write of them; and the host's writes only while the block is ready. An abandoned command counts as its
own command (10_state.md sections 3 to 6 and 9; 20_memory.md sections 2, 4 and 5; 43_finalize_squeeze.md section 5). -/
def Obligations.WhoWritesEachElement : Prop :=
  ∀ s t : State, step s = .next t → s.events.head? ≠ some .resetAssert →
    (t.a ≠ s.a ∨ t.t ≠ s.t →
      s.pending = some .new ∨ s.pending = some .reset ∨ ∃ n, s.pending = some (.write n)) ∧
    (t.l ≠ s.l → s.pending = some .new) ∧
    (t.f ≠ s.f ∨ t.q ≠ s.q ∨ t.outValid ≠ s.outValid →
      s.pending = some .sum ∨ s.pending = some .squeeze ∨ ∃ o, s.pending = some (.osFinish o)) ∧
    (t.w ≠ s.w →
      (s.pending = some .wclear ∨ s.pending = some .permute ∨ s.pending = some .absorbBlock ∨
        (∃ o b, s.pending = some (.absorbByte o b)) ∨ ∃ o, s.pending = some (.osFinish o)) ∨
      (Ready s ∧ ∃ (i : Nat) (_ : i < 12) (v : Word) (es : List Event),
        s.events = .hostWrite .w32 (BitVec.ofNat 8 (0x40 + 4 * i)) v :: es ∧ t.w = s.w.set i v)) ∧
    (t.din ≠ s.din →
      Ready s ∧ ∃ (j : Nat) (_ : j < 4) (v : Word) (es : List Event),
        s.events = .hostWrite .w32 (BitVec.ofNat 8 (0x20 + 4 * j)) v :: es ∧ t.din = s.din.set j v) ∧
    (t.arg ≠ s.arg → Ready s ∧ ∃ es : List Event, s.events = .hostWrite .w32 0x08 t.arg :: es)

/-! ### Output -/

/-- After SUM, reading each chunk and squeezing until OUT_VALID = 0 gives the first L bytes of the squeeze stream of F0, in
exactly ceil(L / 16) chunks, with ceil(L / 16) - 1 permutations of F0; and it is a prefix of the output for any longer length
(43_finalize_squeeze.md section 5; `do` and `readchunk` in the reading of log entry 16). -/
def Obligations.SqueezedOutput : Prop :=
  ∀ s : State, Ready s → s.resetAsserted = false → s.l ≠ 0 →
    let t := doCommand .sum s
    let F0 := perm (pad s.a (s.t.toNat % 16))
    let c := (s.l.toNat + 15) / 16
    (squeezeAll c t).1 = (squeezeStream c F0).take s.l.toNat ∧
    (squeezeAll c t).1.length = s.l.toNat ∧
    (squeezeAll c t).2.outValid = false ∧ (squeezeAll c t).2.fault = false ∧
    (∀ k : Nat, k < c → (squeezeAll k t).2.outValid = true ∧ (squeezeAll k t).2.f = perm^[k] F0) ∧
    (squeezeAll c t).2.f = perm^[c - 1] F0 ∧
    ∀ L : Word, s.l < L →
      (squeezeAll c t).1 = (squeezeAll ((L.toNat + 15) / 16) (doCommand .sum { s with l := L })).1.take s.l.toNat

/-- Two SUMs with no WRITE, NEW or RESET between them, nor hardware reset, present the same chunks, whatever else stands between: in
any run of steps, register writes and reads, commands, engine rounds, that ends ready for the second SUM; and in any list of `do`s
that does not fault (43_finalize_squeeze.md section 5; `do` and `readchunk` in the reading of log entry 16). -/
def Obligations.SumIsIdempotent : Prop :=
  ∀ (s : State) (n : Nat), Ready s → s.resetAsserted = false →
    (∀ t : State, Relation.ReflTransGen ContextStep (doCommand .sum s) t → Ready t → t.resetAsserted = false →
      (squeezeAll n (doCommand .sum t)).1 = (squeezeAll n (doCommand .sum s)).1) ∧
    (∀ is : List Instr, (∀ i ∈ is, i.WellFormed ∧ writesContext i = false) →
      (doCommands is (doCommand .sum s)).fault = false →
      (squeezeAll n (doCommand .sum (doCommands is (doCommand .sum s)))).1 = (squeezeAll n (doCommand .sum s)).1)

/-- For every message the one-shot path presents the same 32 bytes as WRITEs of the same bytes, in any pieces, into a fresh context
with L = 32, and then SUM (44_oneshot.md section 3; the host's sequences in the reading of log entry 16). -/
def Obligations.OneShotEqualsStreaming : Prop :=
  ∀ (s s' : State) (m : List Byte) (ps : List (List Byte)),
    Ready s → s.resetAsserted = false → Ready s' → s'.resetAsserted = false →
    s'.a = SpongeState.zero → s'.t = 0 → s'.l = 32 →
    (∀ p ∈ ps, p.length ≤ 16) → ps.flatten = m →
    let t := oneShot m s
    let t' := doCommand .sum (writePieces ps s')
    t.f = t'.f ∧ t.q = t'.q ∧ t.outValid = t'.outValid ∧
    (squeezeAll 2 t).1 = (squeezeAll 2 t').1 ∧ (squeezeAll 2 t).1.length = 32

/-- The one-shot path never writes A, T or L, and nothing else it leaves depends on them (44_oneshot.md section 3; the host's
sequence in the reading of log entry 16). -/
def Obligations.OneShotLeavesTheContext : Prop :=
  ∀ (s : State) (m : List Byte) (A : SpongeState) (T : BitVec 64) (L : Word), Ready s → s.resetAsserted = false →
    (oneShot m s).a = s.a ∧ (oneShot m s).t = s.t ∧ (oneShot m s).l = s.l ∧
    oneShot m { s with a := A, t := T, l := L } = { oneShot m s with a := A, t := T, l := L }

/-! ### The level of the reset input -/

/-- The level of the reset input, over every step (70_reset_and_hazards.md sections 1 and 2; the level as a field, and what a
reset move keeps of the model's own fields, is the model's choice, log entry 4, and the refusal heldInReset log entry 13): asserting
it holds the block at its reset values; while it is held no access is accepted and no other move changes the block; releasing it
leaves the block ready at once with the reset values. -/
def Obligations.ResetLevelHoldsAndReleases : Prop :=
  ∀ s : State,
    (∀ es : List Event, s.events = .resetAssert :: es →
      step s = .next { State.reset with
        resetAsserted := true, events := es, replies := s.replies, freeIx := s.freeIx }) ∧
    (∀ es : List Event, s.events = .resetRelease :: es →
      step s = .next { s with events := es, resetAsserted := false }) ∧
    (s.resetAsserted = true →
      (∀ (width : AccessWidth) (a : Offset) (v : Word) (es : List Event),
        s.events = .hostWrite width a v :: es ∨ s.events = .hostRead width a :: es → step s = .refused .heldInReset) ∧
      (s.events = [] → step s = .next s) ∧
      (∀ (e : Event) (es : List Event), s.events = e :: es → e = .engineComplete ∨ e = .engineRound →
        step s = .next { s with events := es })) ∧
    (Inv s → s.resetAsserted = true → ∀ es : List Event,
      (s.events = .resetAssert :: es → step s = .next { s with events := es }) ∧
      (s.events = .resetRelease :: es → ∃ t : State, step s = .next t ∧ Ready t ∧
        t = { State.reset with events := es, replies := s.replies, freeIx := s.freeIx }))
end

