-- ==== Sys2Proof/Laws/Decode.lean ====
section
/-! SUPPORT. The opcode map is unambiguous (30_encoding.md R76). -/

namespace Sys2Proof

/-- Two rows clash when some word matches both: they agree on every bit both masks fix. -/
def rowsClash (r r' : OpcodeRow) : Bool := (r.pattern ^^^ r'.pattern) &&& r.mask &&& r'.mask == 0

/-- No two rows of the opcode map clash. -/
theorem opcodeRows_disjoint : opcodeRows.Pairwise (fun r r' => rowsClash r r' = false) := by decide

/-- No row's pattern has a bit outside its mask. -/
theorem opcodeRows_patterns : opcodeRows.all (fun r => r.pattern &&& r.mask == r.pattern) = true := by decide

end Sys2Proof
end

