-- ==== Sys2Proof/Laws/State.lean ====
section
/-! SUPPORT. What each shared update of the state does to each field, true by `rfl`: raising a fault, retiring a
command, hardware reset, accepting a command. -/

namespace Sys2Proof.Machine

/-! ### raiseFault -/

@[simp] theorem raiseFault_a (c : FaultCause) (s : State) : (raiseFault c s).a = s.a := rfl
@[simp] theorem raiseFault_t (c : FaultCause) (s : State) : (raiseFault c s).t = s.t := rfl
@[simp] theorem raiseFault_l (c : FaultCause) (s : State) : (raiseFault c s).l = s.l := rfl
@[simp] theorem raiseFault_w (c : FaultCause) (s : State) : (raiseFault c s).w = s.w := rfl
@[simp] theorem raiseFault_f (c : FaultCause) (s : State) : (raiseFault c s).f = s.f := rfl
@[simp] theorem raiseFault_q (c : FaultCause) (s : State) : (raiseFault c s).q = s.q := rfl
@[simp] theorem raiseFault_outValid (c : FaultCause) (s : State) : (raiseFault c s).outValid = s.outValid := rfl
@[simp] theorem raiseFault_din (c : FaultCause) (s : State) : (raiseFault c s).din = s.din := rfl
@[simp] theorem raiseFault_arg (c : FaultCause) (s : State) : (raiseFault c s).arg = s.arg := rfl
@[simp] theorem raiseFault_busy (c : FaultCause) (s : State) : (raiseFault c s).busy = false := rfl
@[simp] theorem raiseFault_pending (c : FaultCause) (s : State) : (raiseFault c s).pending = none := rfl
@[simp] theorem raiseFault_fault (c : FaultCause) (s : State) : (raiseFault c s).fault = true := rfl
@[simp] theorem raiseFault_faultCode (c : FaultCause) (s : State) : (raiseFault c s).faultCode = causeCode c := rfl
@[simp] theorem raiseFault_round (c : FaultCause) (s : State) : (raiseFault c s).round = none := rfl
@[simp] theorem raiseFault_resetAsserted (c : FaultCause) (s : State) : (raiseFault c s).resetAsserted = s.resetAsserted := rfl
@[simp] theorem raiseFault_events (c : FaultCause) (s : State) : (raiseFault c s).events = s.events := rfl
@[simp] theorem raiseFault_replies (c : FaultCause) (s : State) : (raiseFault c s).replies = s.replies := rfl
@[simp] theorem raiseFault_freeIx (c : FaultCause) (s : State) : (raiseFault c s).freeIx = s.freeIx := rfl

/-! ### retire -/

@[simp] theorem retire_a (s : State) : (retire s).a = s.a := rfl
@[simp] theorem retire_t (s : State) : (retire s).t = s.t := rfl
@[simp] theorem retire_l (s : State) : (retire s).l = s.l := rfl
@[simp] theorem retire_w (s : State) : (retire s).w = s.w := rfl
@[simp] theorem retire_f (s : State) : (retire s).f = s.f := rfl
@[simp] theorem retire_q (s : State) : (retire s).q = s.q := rfl
@[simp] theorem retire_outValid (s : State) : (retire s).outValid = s.outValid := rfl
@[simp] theorem retire_din (s : State) : (retire s).din = s.din := rfl
@[simp] theorem retire_arg (s : State) : (retire s).arg = s.arg := rfl
@[simp] theorem retire_busy (s : State) : (retire s).busy = false := rfl
@[simp] theorem retire_pending (s : State) : (retire s).pending = none := rfl
@[simp] theorem retire_fault (s : State) : (retire s).fault = s.fault := rfl
@[simp] theorem retire_faultCode (s : State) : (retire s).faultCode = s.faultCode := rfl
@[simp] theorem retire_round (s : State) : (retire s).round = none := rfl
@[simp] theorem retire_resetAsserted (s : State) : (retire s).resetAsserted = s.resetAsserted := rfl
@[simp] theorem retire_events (s : State) : (retire s).events = s.events := rfl
@[simp] theorem retire_replies (s : State) : (retire s).replies = s.replies := rfl
@[simp] theorem retire_freeIx (s : State) : (retire s).freeIx = s.freeIx := rfl

/-! ### hardReset -/

@[simp] theorem hardReset_a (s : State) : (hardReset s).a = State.reset.a := rfl
@[simp] theorem hardReset_t (s : State) : (hardReset s).t = State.reset.t := rfl
@[simp] theorem hardReset_l (s : State) : (hardReset s).l = State.reset.l := rfl
@[simp] theorem hardReset_w (s : State) : (hardReset s).w = State.reset.w := rfl
@[simp] theorem hardReset_f (s : State) : (hardReset s).f = State.reset.f := rfl
@[simp] theorem hardReset_q (s : State) : (hardReset s).q = State.reset.q := rfl
@[simp] theorem hardReset_outValid (s : State) : (hardReset s).outValid = State.reset.outValid := rfl
@[simp] theorem hardReset_din (s : State) : (hardReset s).din = State.reset.din := rfl
@[simp] theorem hardReset_arg (s : State) : (hardReset s).arg = State.reset.arg := rfl
@[simp] theorem hardReset_busy (s : State) : (hardReset s).busy = State.reset.busy := rfl
@[simp] theorem hardReset_pending (s : State) : (hardReset s).pending = State.reset.pending := rfl
@[simp] theorem hardReset_fault (s : State) : (hardReset s).fault = State.reset.fault := rfl
@[simp] theorem hardReset_faultCode (s : State) : (hardReset s).faultCode = State.reset.faultCode := rfl
@[simp] theorem hardReset_round (s : State) : (hardReset s).round = State.reset.round := rfl
@[simp] theorem hardReset_resetAsserted (s : State) : (hardReset s).resetAsserted = s.resetAsserted := rfl
@[simp] theorem hardReset_events (s : State) : (hardReset s).events = s.events := rfl
@[simp] theorem hardReset_replies (s : State) : (hardReset s).replies = s.replies := rfl
@[simp] theorem hardReset_freeIx (s : State) : (hardReset s).freeIx = s.freeIx := rfl

/-! ### The reset state (10_state.md R36) -/

@[simp] theorem reset_a : State.reset.a = SpongeState.zero := rfl
@[simp] theorem reset_t : State.reset.t = 0 := rfl
@[simp] theorem reset_l : State.reset.l = 32 := rfl
@[simp] theorem reset_w : State.reset.w = SpongeState.zero := rfl
@[simp] theorem reset_f : State.reset.f = SpongeState.zero := rfl
@[simp] theorem reset_q : State.reset.q = 0 := rfl
@[simp] theorem reset_outValid : State.reset.outValid = false := rfl
@[simp] theorem reset_din : State.reset.din = #v[0, 0, 0, 0] := rfl
@[simp] theorem reset_arg : State.reset.arg = 0 := rfl
@[simp] theorem reset_busy : State.reset.busy = false := rfl
@[simp] theorem reset_pending : State.reset.pending = none := rfl
@[simp] theorem reset_fault : State.reset.fault = false := rfl
@[simp] theorem reset_faultCode : State.reset.faultCode = 0 := rfl
@[simp] theorem reset_round : State.reset.round = none := rfl
@[simp] theorem reset_resetAsserted : State.reset.resetAsserted = false := rfl
@[simp] theorem reset_events : State.reset.events = [] := rfl
@[simp] theorem reset_replies : State.reset.replies = [] := rfl
@[simp] theorem reset_freeIx : State.reset.freeIx = 0 := rfl

end Sys2Proof.Machine
end

