-- ==== Sys2Proof/Laws/Ops.lean ====
section
/-! SUPPORT. One lemma for each shared operation, saying everything it can do: xorByte, xorBytes, xorRate, the round unit,
runCommand, and exec over it. -/

namespace Sys2Proof.Machine

/-! ### Words of a State -/

/-- `xorByte` word by word (10_state.md R24). -/
theorem xorByte_getElem (S : SpongeState) (o : Nat) (v : Byte) (j : Nat) (hj : j < 12) :
    (xorByte S o v)[j] = if o < 16 ∧ o / 4 = j then S[j] ^^^ laneWord v (o % 4) else S[j] := by
  unfold xorByte
  split
  next h =>
    rw [Vector.getElem_set]
    by_cases e : o / 4 = j
    · subst e; simp [h]
    · simp [e]
  next h => simp [h]

/-- No capacity word is reached by `xorByte` (41_absorbers.md R121). -/
theorem xorByte_capacity (S : SpongeState) (o : Nat) (v : Byte) (j : Nat) (hj : j < 12) (hc : 4 ≤ j) :
    (xorByte S o v)[j] = S[j] := by
  rw [xorByte_getElem]
  have : ¬ (o < 16 ∧ o / 4 = j) := by omega
  simp [this]

@[simp] theorem xorBytes_nil (S : SpongeState) (o : Nat) : xorBytes S o [] = S := rfl

@[simp] theorem xorBytes_cons (S : SpongeState) (o : Nat) (b : Byte) (m : List Byte) :
    xorBytes S o (b :: m) = xorBytes (xorByte S o b) (o + 1) m := rfl

/-- XORing a concatenation is XORing its parts one after the other. -/
theorem xorBytes_append (S : SpongeState) (o : Nat) (m n : List Byte) :
    xorBytes S o (m ++ n) = xorBytes (xorBytes S o m) (o + m.length) n := by
  induction m generalizing S o with
  | nil => simp
  | cons b m ih => simp [ih, Nat.add_assoc, Nat.add_comm 1]

/-- No capacity word is reached by `xorBytes`. -/
theorem xorBytes_capacity (S : SpongeState) (o : Nat) (m : List Byte) (j : Nat) (hj : j < 12) (hc : 4 ≤ j) :
    (xorBytes S o m)[j] = S[j] := by
  induction m generalizing S o with
  | nil => rfl
  | cons b m ih => rw [xorBytes_cons, ih, xorByte_capacity _ _ _ _ _ hc]

/-- No capacity word is reached by the XOR half of a block absorb. -/
theorem xorRate_capacity (S : SpongeState) (x0 x1 x2 x3 : Word) (j : Nat) (hj : j < 12) (hc : 4 ≤ j) :
    (xorRate S x0 x1 x2 x3)[j] = S[j] := by
  obtain rfl | rfl | rfl | rfl | rfl | rfl | rfl | rfl :
      j = 4 ∨ j = 5 ∨ j = 6 ∨ j = 7 ∨ j = 8 ∨ j = 9 ∨ j = 10 ∨ j = 11 := by omega
  all_goals rfl

/-! ### The round unit -/

@[simp] theorem clocks_zero (u : RoundUnit) : RoundUnit.clocks 0 u = u := rfl

theorem clocks_succ (n : Nat) (u : RoundUnit) :
    RoundUnit.clocks (n + 1) u = RoundUnit.clocks n u.clock := rfl

theorem clocks_add (m n : Nat) (u : RoundUnit) :
    RoundUnit.clocks (m + n) u = RoundUnit.clocks n (RoundUnit.clocks m u) := by
  induction m generalizing u with
  | zero => simp
  | succ m ih => rw [Nat.add_right_comm]; simp [clocks_succ, ih]

/-- One more round at the end. -/
theorem clocks_clock (n : Nat) (u : RoundUnit) : (RoundUnit.clocks n u).clock = RoundUnit.clocks (n + 1) u := by
  rw [clocks_add n 1]; rfl

/-! ### Running a command -/

/-- Everything `runCommand` can do: nothing in the fault state, a fault of its issue checks, or its effect. -/
theorem runCommand_cases {i : Instr} {eff : State → State} {s t : State} (h : runCommand i eff s = .next t) :
    (s.fault = true ∧ t = s) ∨
    (s.fault = false ∧ ∃ c, issueFault i s = some c ∧ t = raiseFault c s) ∨
    (s.fault = false ∧ issueFault i s = none ∧ t = retire (eff s)) := by
  unfold runCommand at h
  cases hf : s.fault <;> simp only [hf] at h
  · right
    cases hi : issueFault i s with
    | none => rw [hi] at h; right; refine ⟨rfl, rfl, ?_⟩; injection h with h; exact h.symm
    | some c => rw [hi] at h; left; refine ⟨rfl, c, rfl, ?_⟩; injection h with h; exact h.symm
  · left; refine ⟨rfl, ?_⟩; injection h with h; exact h.symm

/-- A command whose checks pass completes with its effect. -/
theorem runCommand_ok {i : Instr} {eff : State → State} {s : State} (hf : s.fault = false)
    (hi : issueFault i s = none) : runCommand i eff s = .next (retire (eff s)) := by
  simp [runCommand, hf, hi]

/-- A command whose check fails raises that fault. -/
theorem runCommand_fault {i : Instr} {eff : State → State} {s : State} {c : FaultCause} (hf : s.fault = false)
    (hi : issueFault i s = some c) : runCommand i eff s = .next (raiseFault c s) := by
  simp [runCommand, hf, hi]

/-- In the fault state a command does nothing. -/
theorem runCommand_faulted {i : Instr} {eff : State → State} {s : State} (hf : s.fault = true) :
    runCommand i eff s = .next s := by
  simp [runCommand, hf]

/-- The effect of a command at the complete step: the pseudocode of its rule. -/
def commandEffect : Instr → State → State
  | .new => newEffect
  | .reset => resetEffect
  | .write n => writeEffect n
  | .sum => sumEffect
  | .squeeze => squeezeEffect
  | .wclear => wclearEffect
  | .permute => permuteEffect
  | .absorbBlock => absorbBlockEffect
  | .absorbByte off byte => absorbByteEffect off byte
  | .osFinish off => osFinishEffect off

/-- Every arm of `exec` is `runCommand` of its own effect. -/
theorem exec_eq_runCommand (i : Instr) (s : State) : exec i s = runCommand i (commandEffect i) s := by
  cases i <;> rfl

/-- Everything `exec` can do. -/
theorem exec_cases {i : Instr} {s t : State} (h : exec i s = .next t) :
    (s.fault = true ∧ t = s) ∨
    (s.fault = false ∧ ∃ c, issueFault i s = some c ∧ t = raiseFault c s) ∨
    (s.fault = false ∧ issueFault i s = none ∧ t = retire (commandEffect i s)) :=
  runCommand_cases (exec_eq_runCommand i s ▸ h)

/-- `exec` always answers a next state. -/
theorem exec_total (i : Instr) (s : State) : ∃ t, exec i s = .next t := by
  rw [exec_eq_runCommand]
  cases hf : s.fault with
  | true => exact ⟨_, runCommand_faulted hf⟩
  | false =>
    cases hi : issueFault i s with
    | none => exact ⟨_, runCommand_ok hf hi⟩
    | some c => exact ⟨_, runCommand_fault hf hi⟩

/-- What no command's effect touches: DIN, ARG, BUSY, PENDING, the fault registers, the round unit and the model's own
fields. -/
theorem commandEffect_frame (i : Instr) (s : State) :
    (commandEffect i s).din = s.din ∧ (commandEffect i s).arg = s.arg ∧ (commandEffect i s).fault = s.fault ∧
    (commandEffect i s).faultCode = s.faultCode ∧ (commandEffect i s).busy = s.busy ∧
    (commandEffect i s).pending = s.pending ∧ (commandEffect i s).round = s.round ∧
    (commandEffect i s).resetAsserted = s.resetAsserted ∧ (commandEffect i s).events = s.events ∧
    (commandEffect i s).replies = s.replies ∧ (commandEffect i s).freeIx = s.freeIx := by
  cases i <;>
    simp [commandEffect, newEffect, resetEffect, writeEffect, sumEffect, wclearEffect, permuteEffect, absorbBlockEffect,
      absorbByteEffect, osFinishEffect]
  unfold squeezeEffect; split <;> simp

end Sys2Proof.Machine
end

