-- ==== Sys2Proof/Laws/Step.lean ====
section
/-! SUPPORT. What the agents' moves and one step can do: issue, RegWrite, RegRead, the complete step, and `step` itself. -/

namespace Sys2Proof.Machine

/-- Everything `issue` can do (30_encoding.md R77). -/
theorem issue_cases (v : Word) (s : State) :
    ((∃ e, decode v = .error e) ∧ issue v s = raiseFault .illegalCmd s) ∨
    (∃ i c, decode v = .ok i ∧ issueFault i s = some c ∧ issue v s = raiseFault c s) ∨
    (∃ i, decode v = .ok i ∧ issueFault i s = none ∧ issue v s = { s with pending := some i, busy := true }) := by
  unfold issue
  cases hd : decode v with
  | error e => exact .inl ⟨⟨e, rfl⟩, rfl⟩
  | ok i =>
    right
    cases hi : issueFault i s with
    | some c => exact .inl ⟨i, c, rfl, hi, by simp [hi]⟩
    | none => exact .inr ⟨i, rfl, hi, by simp [hi]⟩

/-- RegWrite in the fault state is ignored (20_memory.md R58). -/
theorem regWrite_faulted {a : Offset} {v : Word} {s : State} (hf : s.fault = true) : regWrite a v s = s := by
  simp [regWrite, hf]

/-- RegWrite while BUSY = 1 (R58). -/
theorem regWrite_busy {a : Offset} {v : Word} {s : State} (hf : s.fault = false) (hb : s.busy = true) :
    regWrite a v s = violateBusy s := by
  simp [regWrite, hf, hb]

/-- RegWrite to a block that accepts it (R58). -/
theorem regWrite_ready {a : Offset} {v : Word} {s : State} (hf : s.fault = false) (hb : s.busy = false) :
    regWrite a v s = writeReg (regAt a) v s := by
  simp [regWrite, hf, hb]

/-- A read changes nothing but what the host has read and the count of free values (R55). -/
theorem regRead_eq (a : Offset) (s : State) :
    ∃ v k, regRead a s = { s with replies := v :: s.replies, freeIx := k } := by
  unfold regRead
  split
  · exact ⟨_, _, rfl⟩
  · exact ⟨_, s.freeIx, rfl⟩

/-- A step with no move left. -/
theorem step_nil {s : State} (h : s.events = []) : step s = runQuiet s := by simp [step, h]

/-- A step takes the first move. -/
theorem step_cons {s : State} {e : Event} {es : List Event} (h : s.events = e :: es) :
    step s = takeEvent e { s with events := es } := by simp [step, h]

/-- The complete step with a pending command is `exec` of it (10_state.md R31). -/
theorem engineComplete_pending {s : State} {i : Instr} (hf : s.fault = false) (hr : s.resetAsserted = false)
    (hp : s.pending = some i) : engineComplete s = exec i s := by
  simp [engineComplete, hf, hr, hp]

/-- Everything the complete step can do. -/
theorem engineComplete_cases {s t : State} (h : engineComplete s = .next t) :
    t = s ∨ (s.fault = false ∧ s.resetAsserted = false ∧ ∃ i, s.pending = some i ∧ exec i s = .next t) := by
  unfold engineComplete at h
  split at h
  · injection h with h; exact .inl h.symm
  next hg =>
    simp only [Bool.or_eq_true, not_or, Bool.not_eq_true] at hg
    split at h
    · injection h with h; exact .inl h.symm
    next i hp => exact .inr ⟨hg.1, hg.2, i, hp, h⟩

/-- The engine's round changes only the hidden field (10_state.md R34). -/
theorem engineRound_eq (s : State) : ∃ u, engineRound s = { s with round := u } := by
  unfold engineRound
  split
  · exact ⟨s.round, rfl⟩
  · split
    · exact ⟨s.round, rfl⟩
    · exact ⟨_, rfl⟩

/-- What a BUSY_VIOLATION leaves whatever the free choice is (60_exceptions.md R205, R208). -/
theorem violateBusy_frame (s : State) :
    (violateBusy s).fault = true ∧ (violateBusy s).faultCode = causeCode .busyViolation ∧ (violateBusy s).pending = none ∧
    (violateBusy s).busy = false ∧ (violateBusy s).round = none ∧ (violateBusy s).din = s.din ∧
    (violateBusy s).arg = s.arg ∧ (violateBusy s).events = s.events ∧ (violateBusy s).replies = s.replies ∧
    (violateBusy s).resetAsserted = s.resetAsserted := by
  unfold violateBusy
  split
  · exact ⟨rfl, rfl, rfl, rfl, rfl, rfl, rfl, rfl, rfl, rfl⟩
  · split
    · unfold abandonTo; split <;> exact ⟨rfl, rfl, rfl, rfl, rfl, rfl, rfl, rfl, rfl, rfl⟩
    all_goals exact ⟨rfl, rfl, rfl, rfl, rfl, rfl, rfl, rfl, rfl, rfl⟩

/-- The complete step always answers a next state. -/
theorem engineComplete_total (s : State) : ∃ t, engineComplete s = .next t := by
  unfold engineComplete
  split
  · exact ⟨_, rfl⟩
  · split
    · exact ⟨_, rfl⟩
    · exact exec_total _ _

end Sys2Proof.Machine
end

