-- ==== Sys2Proof/Laws/Host.lean ====
section
/-! SUPPORT. What the host lines of Safety.lean do on a ready block: `do MNEMONIC` and `loaddin` (30_encoding.md R83). -/

namespace Sys2Proof

open Sys2Proof.Machine

/-- `do i` on a ready block is the command's own effect, when its word decodes to it and its issue checks pass. -/
theorem doCommand_ok {i : Instr} {s : State} (h : Ready s) (hr : s.resetAsserted = false)
    (hd : decode (encode i) = .ok i) (hi : issueFault i s = none) : doCommand i s = retire (commandEffect i s) := by
  have hq : issueFault i { s with pending := some i, busy := true } = none := hi
  have hw : regWrite 0x00 (encode i) s = { s with pending := some i, busy := true } := by
    rw [regWrite_ready h.1 h.2, show regAt 0x00 = .cmd from rfl]
    simp only [writeReg, issue, hd, hi]
  have he : engineComplete { s with pending := some i, busy := true } =
      .next (retire (commandEffect i { s with pending := some i, busy := true })) := by
    rw [engineComplete_pending (s := { s with pending := some i, busy := true }) h.1 hr rfl, exec_eq_runCommand,
      runCommand_ok (s := { s with pending := some i, busy := true }) h.1 hq]
  unfold doCommand
  simp only [hw, he, nextOr]
  cases i <;> try rfl
  simp only [commandEffect, squeezeEffect]; split <;> rfl

/-- `do i` in the fault state changes nothing. -/
theorem doCommand_faulted {i : Instr} {s : State} (hf : s.fault = true) : doCommand i s = s := by
  unfold doCommand
  simp only [regWrite_faulted hf]
  unfold engineComplete
  rw [if_pos (by simp [hf])]
  rfl

/-- One DIN register written on a ready block. -/
theorem regWrite_din {s : State} (h : Ready s) (j : Fin 4) {a : Offset} (v : Word) (ha : regAt a = .din j) :
    regWrite a v s = { s with din := s.din.set j v } := by
  rw [regWrite_ready h.1 h.2, ha]
  rfl

end Sys2Proof
end

