-- ==== Sys2Proof/Laws/PerInstr.lean ====
section
/-! SUPPORT. Statements about every command as syntax, one lemma a constructor: the word the encoder writes has the command's
opcode in OP = `v[3:0]` and zeros in the bits reserved for every opcode, 15:13 and 31:24 (30_encoding.md R70, R71). -/

namespace Sys2Proof.Laws

/-- The command's word has its opcode at bits 3:0 and nothing in the bits no command uses. -/
def EncodedOpcode.Statement (i : Instr) : Prop :=
  opField (encode i) = i.opcode ∧ (encode i).extractLsb' 13 3 = 0 ∧ (encode i).extractLsb' 24 8 = 0

theorem EncodedOpcode.new : EncodedOpcode.Statement .new := by unfold EncodedOpcode.Statement; decide

theorem EncodedOpcode.reset : EncodedOpcode.Statement .reset := by unfold EncodedOpcode.Statement; decide

theorem EncodedOpcode.write (n : BitVec 5) : EncodedOpcode.Statement (.write n) := by
  revert n; unfold EncodedOpcode.Statement; decide

theorem EncodedOpcode.sum : EncodedOpcode.Statement .sum := by unfold EncodedOpcode.Statement; decide

theorem EncodedOpcode.squeeze : EncodedOpcode.Statement .squeeze := by unfold EncodedOpcode.Statement; decide

theorem EncodedOpcode.wclear : EncodedOpcode.Statement .wclear := by unfold EncodedOpcode.Statement; decide

theorem EncodedOpcode.permute : EncodedOpcode.Statement .permute := by unfold EncodedOpcode.Statement; decide

theorem EncodedOpcode.absorbBlock : EncodedOpcode.Statement .absorbBlock := by
  unfold EncodedOpcode.Statement; decide

theorem EncodedOpcode.absorbByte (off : BitVec 4) (byte : Byte) :
    EncodedOpcode.Statement (.absorbByte off byte) := by
  revert off byte; unfold EncodedOpcode.Statement; decide +kernel

theorem EncodedOpcode.osFinish (off : BitVec 4) : EncodedOpcode.Statement (.osFinish off) := by
  revert off; unfold EncodedOpcode.Statement; decide

end Sys2Proof.Laws
end

