-- ==== Sys2Proof/Tests/Slice0.lean ====
section
/-! SUPPORT. Small tests. Expected values are those of 95_test_vectors.md (the vector is named in each comment) or follow by
hand from the rule named. Then, for each statement of Certificates/Slice0/Obligations.lean that has hypotheses, a concrete
instance that meets them. -/

namespace Sys2Proof.Tests

open Sys2Proof Sys2Proof.Machine

/-! ### Well-formedness (30_encoding.md R73) -/

/-- The one check: a WRITE count of 17 is refused; 16 and 0 are not. -/
theorem test_wellFormed_write : (Instr.write 17).wellFormed = false ∧ (Instr.write 31).wellFormed = false ∧
    (Instr.write 16).wellFormed = true ∧ (Instr.write 0).wellFormed = true := by decide

/-! ### Decoding, each word written out field by field: bits 31:24, BYTE, 15:13, N, OFF, OP (R70, R76) -/

theorem test_decode_new : decode 0b00000000_00000000_000_00000_0000_0001 = .ok .new := by decide
theorem test_decode_reset : decode 0b00000000_00000000_000_00000_0000_0010 = .ok .reset := by decide
theorem test_decode_write : decode 0b00000000_00000000_000_00011_0000_0011 = .ok (.write 3) := by decide
theorem test_decode_sum : decode 0b00000000_00000000_000_00000_0000_0100 = .ok .sum := by decide
theorem test_decode_squeeze : decode 0b00000000_00000000_000_00000_0000_0101 = .ok .squeeze := by decide
theorem test_decode_wclear : decode 0b00000000_00000000_000_00000_0000_0110 = .ok .wclear := by decide
theorem test_decode_permute : decode 0b00000000_00000000_000_00000_0000_0111 = .ok .permute := by decide
theorem test_decode_absorbBlock : decode 0b00000000_00000000_000_00000_0000_1000 = .ok .absorbBlock := by decide
theorem test_decode_absorbByte :
    decode 0b00000000_01011010_000_00000_0110_1001 = .ok (.absorbByte 6 0x5a) := by decide
theorem test_decode_osFinish : decode 0b00000000_00000000_000_00000_0010_1010 = .ok (.osFinish 2) := by decide

/-- The legal words of V-E1, and the words its programs print (PR4). -/
theorem test_decode_more : decode 0x00001003 = .ok (.write 16) ∧ decode 0x00000003 = .ok (.write 0) ∧
    decode 0x00ff00f9 = .ok (.absorbByte 15 0xff) ∧ decode 0x000000fa = .ok (.osFinish 15) ∧
    decode 0x00640009 = .ok (.absorbByte 0 0x64) ∧ decode 0x00210019 = .ok (.absorbByte 1 0x21) := by decide

/-- The illegal words of V-E1. -/
theorem test_decode_illegal :
    [0x00001103, 0x00000013, 0x01000009, 0x0000010a, 0x00000014, 0x00000000, 0x0000000b, 0x0000000f, 0x80000005].all
      (fun v => (decode v).toOption == none && !legalWord v) = true := by decide

theorem test_decodeTableWord : decodeTableWord 32 0x00001003 = some (.write 16) ∧
    decodeTableWord 32 0x0000000b = none := by decide

/-! ### Words and the permutation -/

/-- V-P1. -/
theorem test_rotl32 : rotl32 0x78dde724 9 = 0xbbce48f1 ∧ rotl32 0x12345678 24 = 0x78123456 ∧
    rotl32 0x80000001 9 = 0x00000300 ∧ rotl32 0x12345678 0 = 0x12345678 := by decide

/-- V-P2, the single-input rows, all ones, and columns 0 and 1 of L1-1. -/
theorem test_spbox : spbox 0 0 1 = (0x00000001, 0x00000002, 0x00000002) ∧
    spbox 1 0 0 = (0x00000000, 0x03000000, 0x01000000) ∧ spbox 0 1 0 = (0x00000200, 0x00000200, 0x00000000) ∧
    spbox 0xffffffff 0xffffffff 0xffffffff = (0xfffffff8, 0xfffffffe, 0xfffffffd) ∧
    spbox 0x80000000 0x80000000 0x80000000 = (0x80000100, 0x01800100, 0x00800000) ∧
    spbox 0x00000000 0x78dde724 0xf1bbcfc8 = (0x4a758739, 0x58b9d761, 0x255ebc90) ∧
    spbox 0x9e3779ba 0x1715611a 0x8ff34a5a = (0xf120df34, 0xefa2fda1, 0x8e70a3e5) := by decide

/-- The state t of V-P6. -/
def ramp : SpongeState :=
  #v[0x11111111, 0x22222222, 0x33333333, 0x44444444, 0x55555555, 0x66666666, 0x77777777, 0x88888888, 0x99999999, 0xaaaaaaaa,
    0xbbbbbbbb, 0xcccccccc]

/-- V-P6: a round of each class. -/
theorem test_rounds : spongeRound 24 ramp = #v[0xf8511f7e, 0x33333333, 0xdddddddd, 0x44444445, 0x88888889, 0xbbbbbbba,
      0xaaaaaaab, 0xcccccccd, 0x00000003, 0x55555556, 0xeeeeeeed, 0xdddddddc] ∧
    spongeRound 22 ramp = #v[0x44444445, 0xdddddddd, 0x33333333, 0x66666666, 0x88888889, 0xbbbbbbba, 0xaaaaaaab, 0xcccccccd,
      0x00000003, 0x55555556, 0xeeeeeeed, 0xdddddddc] ∧
    spongeRound 23 ramp = columns ramp ∧ spongeRound 21 ramp = columns ramp := by decide

/-- V-P7. -/
theorem test_round_zero : spongeRound 24 SpongeState.zero = #v[0x9e377918, 0, 0, 0, 0, 0, 0, 0, 0, 0, 0, 0] ∧
    spongeRound 23 SpongeState.zero = SpongeState.zero := by decide

/-- The input and the output of L1-1. -/
def vectorIn : SpongeState :=
  #v[0x00000000, 0x9e3779ba, 0x3c6ef37a, 0xdaa66d46, 0x78dde724, 0x1715611a, 0xb54cdb2e, 0x53845566, 0xf1bbcfc8, 0x8ff34a5a,
    0x2e2ac522, 0xcc624026]

def vectorOut : SpongeState :=
  #v[0xba11c85a, 0x91bad119, 0x380ce880, 0xd24c2c68, 0x3eceffea, 0x277a921c, 0x4f73a0bd, 0xda5a9cd8, 0x84b673f0, 0x34e52ff7,
    0x9e2bef49, 0xf41bb8d6]

/-- L1-1, the source's own permutation vector. -/
theorem test_perm_vector : perm vectorIn = vectorOut := by decide

/-- V-P4. -/
theorem test_perm_zero : perm SpongeState.zero = #v[0x6467d8c4, 0x07dcf83b, 0x3b0bb0d4, 0x1b21364c, 0x083431dc, 0x0efbbe8e,
    0x0054e884, 0x648bd955, 0x4a5db42e, 0xca0641cb, 0x8673d2c2, 0x2e30d809] := by decide

/-- V-P3: the round unit after one round and after four on L1-1's input, counting down (R34). -/
theorem test_round_unit : (RoundUnit.clocks 1 (RoundUnit.start vectorIn)).st[0] = 0x6f17a62c ∧
    (RoundUnit.clocks 4 (RoundUnit.start vectorIn)).st[0] = 0x9cb1dff0 ∧
    (RoundUnit.clocks 4 (RoundUnit.start vectorIn)).r = 20 := by decide

/-! ### Bytes, blocks, padding -/

/-- V-A1 and V-A2. -/
theorem test_xorByte : (xorByte SpongeState.zero 0 0xab)[0] = 0x000000ab ∧ (xorByte SpongeState.zero 1 0xab)[0] = 0x0000ab00 ∧
    (xorByte SpongeState.zero 2 0xab)[0] = 0x00ab0000 ∧ (xorByte SpongeState.zero 3 0xab)[0] = 0xab000000 ∧
    (xorByte SpongeState.zero 5 0x01)[1] = 0x00000100 ∧ (xorByte SpongeState.zero 15 0x80)[3] = 0x80000000 ∧
    (xorByte SpongeState.zero 12 0xff)[3] = 0x000000ff := by decide

/-- V-Q1, V-Q2, V-Q3. -/
theorem test_pad : pad SpongeState.zero 0 = #v[0x0000001f, 0, 0, 0x80000000, 0, 0, 0, 0, 0, 0, 0, 0] ∧
    pad SpongeState.zero 15 = #v[0, 0, 0, 0x9f000000, 0, 0, 0, 0, 0, 0, 0, 0] ∧
    (pad (xorBytes SpongeState.zero 0 (List.replicate 15 0x61)) 15)[3] = 0x9f616161 := by decide

/-- V-A4. -/
theorem test_loadDin : (loadDin [0x00, 0x01, 0x02, 0x03, 0x04, 0x05, 0x06, 0x07, 0x08, 0x09, 0x0a, 0x0b, 0x0c, 0x0d, 0x0e, 0x0f]
      State.reset).din = #v[0x03020100, 0x07060504, 0x0b0a0908, 0x0f0e0d0c] ∧
    (loadDin [0x61, 0x62, 0x63] State.reset).din = #v[0x00636261, 0, 0, 0] := by decide

/-! ### Commands -/

/-- What one complete step of `i` leaves. -/
def after (i : Instr) (s : State) : State := nextOr s (exec i s)

/-- PR1. -/
theorem test_permute : (after .permute { State.reset with w := vectorIn }).w = vectorOut := by decide

/-- V-A7. -/
theorem test_wclear : (after .wclear { State.reset with w := vectorIn, a := ramp }).w = SpongeState.zero ∧
    (after .wclear { State.reset with w := vectorIn, a := ramp }).a = ramp := by decide

/-- V-A5. -/
theorem test_absorbBlock :
    (after .absorbBlock { State.reset with din := #v[0x03020100, 0x07060504, 0x0b0a0908, 0x0f0e0d0c] }).w =
      #v[0x0b6ae89b, 0x24e22580, 0x164faa45, 0xca35fe09, 0x82c8c297, 0x3c91a52e, 0x3c8c1b10, 0xf9f6041c, 0xb7f31490, 0x4b1b8be7,
        0x61191ce5, 0xbee806ad] := by decide

/-- V-A6: with DIN = 0 it is PERMUTE. -/
theorem test_absorbBlock_zero : (after .absorbBlock { State.reset with w := vectorIn }).w[0] = 0xba11c85a := by decide

/-- V-A3: one ABSORB_BYTE, and the same again. -/
theorem test_absorbByte : (after (.absorbByte 6 0x5a) State.reset).w =
      #v[0, 0x005a0000, 0, 0, 0, 0, 0, 0, 0, 0, 0, 0] ∧
    (after (.absorbByte 6 0x5a) { State.reset with w := #v[0, 0x005a0000, 0, 0, 0, 0, 0, 0, 0, 0, 0, 0] }).w =
      SpongeState.zero := by decide

/-- R127: OFF = 15 reaches bits 31:24 of W[3]. -/
theorem test_absorbByte_top : (after (.absorbByte 15 0x80) State.reset).w[3] = 0x80000000 := by decide

/-- V-S1. -/
theorem test_new : (after .new { State.reset with arg := 20, a := ramp, t := 7 }).l = 20 ∧
    (after .new { State.reset with arg := 20, a := ramp, t := 7 }).a = SpongeState.zero ∧
    (after .new { State.reset with arg := 20, a := ramp, t := 7 }).t = 0 := by decide

/-- V-S9: RESET keeps L. -/
theorem test_reset : (after .reset { State.reset with a := ramp, t := 5, l := 20 }).a = SpongeState.zero ∧
    (after .reset { State.reset with a := ramp, t := 5, l := 20 }).t = 0 ∧
    (after .reset { State.reset with a := ramp, t := 5, l := 20 }).l = 20 := by decide

/-- V-S2. -/
theorem test_write : (after (.write 3) { State.reset with din := #v[0x00636261, 0, 0, 0] }).a =
      #v[0x00636261, 0, 0, 0, 0, 0, 0, 0, 0, 0, 0, 0] ∧
    (after (.write 3) { State.reset with din := #v[0x00636261, 0, 0, 0] }).t = 3 := by decide

/-- V-S5: a WRITE that crosses a block boundary. -/
theorem test_write_crosses :
    (after (.write 16) { State.reset with
      a := #v[0x00636261, 0, 0, 0, 0, 0, 0, 0, 0, 0, 0, 0], t := 3
      din := #v[0x61616161, 0x61616161, 0x61616161, 0x61616161] }).a =
      #v[0x7d66838c, 0xe5e7941f, 0x1de5d11e, 0xe1c47819, 0x9e87ae0d, 0xe705f6b4, 0xabb82123, 0x660d6e4a, 0x61438bd8, 0xe769e4aa,
        0x45938df4, 0xb1a0f3ba] := by decide +kernel

/-- PR2: SUM on the empty canonical context, read through the window. -/
theorem test_sum : readReg .status (after .sum State.reset) = 0x00001004 ∧
    readReg (.dout 0) (after .sum State.reset) = 0x2c4b63b0 ∧ readReg (.dout 3) (after .sum State.reset) = 0xcfade34e ∧
    readReg .outrem (after .sum State.reset) = 0x20 := by decide

/-- V-Q8 (L = 20): the second, truncated chunk. -/
theorem test_squeeze : status (after .squeeze (sumEffect { State.reset with l := 20 })) = 0x00000404 ∧
    dout (after .squeeze (sumEffect { State.reset with l := 20 })) 0 = 0x05ec89c9 ∧
    dout (after .squeeze (sumEffect { State.reset with l := 20 })) 1 = 0 := by decide +kernel

/-- R163: with Q = 16 the squeeze ends, F stays, and no DOUT shows it. -/
theorem test_squeeze_last : status (after .squeeze { State.reset with f := ramp, q := 16, outValid := true }) = 0 ∧
    (after .squeeze { State.reset with f := ramp, q := 16, outValid := true }).f = ramp ∧
    dout (after .squeeze { State.reset with f := ramp, q := 16, outValid := true }) 0 = 0 := by decide

/-- V-O4. -/
theorem test_osFinish : dout (after (.osFinish 15) State.reset) 0 = 0x770c5470 ∧
    (after (.osFinish 15) State.reset).q = 32 := by decide

/-- V-O1 and V-O3: a second OS_FINISH pads and permutes the finalized W again. -/
theorem test_osFinish_again : dout (after (.osFinish 0) State.reset) 0 = 0x2c4b63b0 ∧
    dout (after (.osFinish 0) { State.reset with w := (after (.osFinish 0) State.reset).w }) 0 = 0x757de532 := by decide +kernel

/-! ### Faults, through the register window -/

/-- V-F1 to V-F7, and V-F6's priority: STATUS after the faulting CMD write. -/
theorem test_fault_codes : status (regWrite 0x00 0x00000001 State.reset) = 0x00010002 ∧
    status (regWrite 0x00 0x00000000 State.reset) = 0x00020002 ∧ status (regWrite 0x00 0x0000000b State.reset) = 0x00020002 ∧
    status (regWrite 0x00 0x00001103 State.reset) = 0x00020002 ∧ status (regWrite 0x00 0x00000014 State.reset) = 0x00020002 ∧
    status (regWrite 0x00 0x00000011 State.reset) = 0x00020002 ∧
    status (regWrite 0x00 0x00000005 State.reset) = 0x00030002 := by decide

/-- V-F9: STATUS is 1 while PERMUTE is pending, and a write to DIN0 then is BUSY_VIOLATION. -/
theorem test_busy_violation : status (regWrite 0x00 0x00000007 State.reset) = 0x00000001 ∧
    status (regWrite 0x20 1 (regWrite 0x00 0x00000007 State.reset)) = 0x00040002 := ⟨by decide, by rfl⟩

/-- V-F11: the first fault stays. -/
theorem test_fault_sticky :
    status (regWrite 0x00 1 (regWrite 0x08 5 (regWrite 0x00 0 State.reset))) = 0x00020002 := by decide

/-- R51, R53: BLOCKSIZE reads 16, OUTLEN 32, CMD and reserved offsets 0; W11 is written and read at 0x6C. -/
theorem test_window : (regRead 0x10 State.reset).replies = [16] ∧ (regRead 0x0C State.reset).replies = [32] ∧
    (regRead 0x00 State.reset).replies = [0] ∧ (regRead 0x70 State.reset).replies = [0] ∧
    (regRead 0x6C (regWrite 0x6C 0xcc624026 State.reset)).replies = [0xcc624026] := by decide

/-- A placed word is the next command that runs (log entry 9). -/
theorem test_placed : step (State.reset.withFetchWord 32 0x00000007) =
    exec .permute { State.reset with pending := some .permute, busy := true } := by rfl

/-! ### Witnesses: concrete instances that meet the hypotheses of each statement -/

theorem ready_reset : Ready State.reset := ⟨rfl, rfl⟩

theorem inv_reset : Inv State.reset where
  busy_iff_pending := rfl
  pending_passed_issue := by intro i h; cases h
  length_positive := by decide
  valid_iff_remaining := by decide
  no_fault_code := fun _ => rfl
  fault_code := by intro h; cases h
  round_sound := by intro u h; cases h
  held_in_reset := by intro h; cases h

/-- PERMUTE is pending and the round unit has done two rounds; one move of the engine is to come. -/
def permuting : State :=
  { State.reset with
      w := vectorIn, busy := true, pending := some .permute
      round := some (RoundUnit.clocks 2 (RoundUnit.start vectorIn)) }

theorem inv_permuting : Inv permuting where
  busy_iff_pending := rfl
  pending_passed_issue := by intro i h; cases h; decide
  length_positive := by decide
  valid_iff_remaining := by decide
  no_fault_code := fun _ => rfl
  fault_code := by intro h; cases h
  round_sound := by intro u h; cases h; exact ⟨.permute, vectorIn, rfl, rfl, by decide, by decide⟩
  held_in_reset := by intro h; cases h

/-- The host's write of an illegal word is the next move. -/
def aboutToFault : State := { State.reset with events := [.hostWrite .w32 0x00 0x00000000] }

theorem inv_aboutToFault : Inv aboutToFault where
  busy_iff_pending := rfl
  pending_passed_issue := by intro i h; cases h
  length_positive := by decide
  valid_iff_remaining := by decide
  no_fault_code := fun _ => rfl
  fault_code := by intro h; cases h
  round_sound := by intro u h; cases h
  held_in_reset := by intro h; cases h

theorem witness_DecodeOfEncodeIsIdentity : (Instr.write 16).WellFormed ∧ (Instr.absorbByte 15 0xff).WellFormed := by decide

theorem witness_EncodeOfDecodeIsIdentity : decode 0x00001003 = .ok (.write 16) := by decide

theorem witness_IllegalWordsRaiseIllegalCmd : legalWord 0x0000000b = false ∧ legalWord 0x80000005 = false ∧
    legalWord 0x00001103 = false ∧ legalWord 0x00001003 = true ∧ Ready State.reset :=
  ⟨by decide, by decide, by decide, by decide, ready_reset⟩

theorem witness_ReservedOpcodeIsIllegal : opField 0x00000000 = 0 ∧ 0xB ≤ opField 0x0000000b ∧ 0xB ≤ opField 0x0000000f ∧
    Ready State.reset := ⟨by decide, by decide, by decide, ready_reset⟩

theorem witness_LegalWordCount : legalWord 0x00001103 = false ∧ Ready State.reset := ⟨by decide, ready_reset⟩

/-- Also for the rounds of PermutationIsBijective. -/
theorem witness_LinearLayerAndConstants : (1 ≤ 24 ∧ 24 ≤ 24 ∧ 24 % 4 = 0) ∧ (1 ≤ 22 ∧ 22 ≤ 24 ∧ 22 % 4 = 2) ∧
    (1 ≤ 1 ∧ 1 ≤ 24 ∧ 1 % 4 = 1) := by decide

theorem witness_RoundUnitComputesPermutation : 1 ∣ 24 ∧ 24 ∣ 24 ∧ 23 < 24 / 1 ∧ 0 < 24 / 24 := by decide

theorem witness_RoundUnitInputIsWhatTheCommandPermutes : State.reset.fault = false ∧ issueFault .permute State.reset = none ∧
    exec .permute State.reset = .next (after .permute State.reset) ∧ permInput .permute State.reset = some SpongeState.zero ∧
    issueFault .wclear State.reset = none ∧ exec .wclear State.reset = .next (after .wclear State.reset) ∧
    permInput .wclear State.reset = none :=
  ⟨rfl, by decide, rfl, rfl, by decide, rfl, rfl⟩

/-- Also each form of WRITE and of SQUEEZE that the round unit serves or does not. -/
theorem witness_RoundUnitInput_forms : permInput (.write 16) { State.reset with t := 1 } ≠ none ∧
    permInput (.write 15) State.reset = none ∧ permInput .squeeze { State.reset with q := 17, outValid := true } ≠ none ∧
    permInput .squeeze { State.reset with q := 16, outValid := true } = none := by decide

theorem witness_BlockAbsorbIsSixteenByteXors : (List.replicate 16 (0x61 : Byte)).length = 16 := by decide

/-- For PermuteCompletes, WclearCompletes, AbsorbBlockCompletes, AbsorbByteCompletes, ResetCompletes, SumCompletes,
OsFinishCompletes, whose one hypothesis on the state this is. -/
theorem witness_faultFree : State.reset.fault = false := rfl

/-- For the index bounds of ColumnsAreIndependentSpBoxes, XorByteChangesOneByte, BusPacking, LaneMultiplexerIsXorByte,
PadTouchesTwoBytes, AbsorbByteCompletes: the last index of each range. -/
theorem witness_indices : 3 < 4 ∧ 15 < 16 ∧ 47 < 48 ∧ (4 ≤ 11 ∧ 11 < 12) ∧ 15 ≤ 15 := by decide

theorem witness_NewCompletes : ({ State.reset with arg := 1 } : State).fault = false ∧
    ({ State.reset with arg := 1 } : State).arg ≠ 0 := by decide

theorem witness_NewWithArgZeroFaults : Ready State.reset ∧ State.reset.arg = 0 := ⟨ready_reset, rfl⟩

theorem witness_WriteCompletesAsByteFold : (16 : BitVec 5) ≤ 16 ∧ (0 : BitVec 5) ≤ 16 ∧ State.reset.fault = false := by decide

/-- One instance for each clause: nothing to write; a full block; just short of the boundary; exactly at it; past it; DIN bytes
beyond N. -/
theorem witness_WriteCornerCases : (0 : BitVec 5) ≤ 16 ∧ ((0 : BitVec 64).toNat % 16 = 0 ∧ (16 : BitVec 5) = 16) ∧
    (3 : BitVec 64).toNat % 16 + (12 : BitVec 5).toNat < 16 ∧
    ((3 : BitVec 64).toNat % 16 ≠ 0 ∧ 16 ≤ (3 : BitVec 64).toNat % 16 + (13 : BitVec 5).toNat) ∧
    ((15 : BitVec 64).toNat % 16 ≠ 0 ∧ 16 ≤ (15 : BitVec 64).toNat % 16 + (16 : BitVec 5).toNat) ∧
    (∀ k : Nat, k < (3 : BitVec 5).toNat → dinByte #v[0xff636261, 1, 2, 3] k = dinByte #v[0x00636261, 0, 0, 0] k) ∧
    exec (.write 3) State.reset = .next (after (.write 3) State.reset) :=
  ⟨by decide, by decide, by decide, by decide, by decide, by decide, rfl⟩

theorem witness_ChunkInvariance : Ready State.reset ∧ State.reset.resetAsserted = false ∧
    (∀ p ∈ ([[1], [], [2, 3]] : List (List Byte)), p.length ≤ 16) ∧ (∀ q ∈ ([[1, 2], [3]] : List (List Byte)), q.length ≤ 16) ∧
    ([[1], [], [2, 3]] : List (List Byte)).flatten = [[1, 2], [3]].flatten :=
  ⟨ready_reset, rfl, by decide, by decide, by decide⟩

/-- The last WRITE short of the boundary, and the first at it from an empty and from a filled rate. -/
theorem witness_WriteMovesCapacityOnlyThroughP : (16 : BitVec 5) ≤ 16 ∧ State.reset.fault = false ∧
    exec (.write 16) State.reset = .next (after (.write 16) State.reset) ∧ 4 ≤ 11 ∧ 11 < 12 ∧
    (0 : BitVec 64).toNat % 16 + (15 : BitVec 5).toNat < 16 ∧ ¬ (0 : BitVec 64).toNat % 16 + (16 : BitVec 5).toNat < 16 ∧
    ¬ (15 : BitVec 64).toNat % 16 + (1 : BitVec 5).toNat < 16 :=
  ⟨by decide, rfl, rfl, by decide, by decide, by decide, by decide, by decide⟩

/-- A chunk is presented, at the two sides of the boundary of R163. -/
theorem witness_SqueezeCompletes : ({ State.reset with q := 17, outValid := true } : State).fault = false ∧
    ({ State.reset with q := 17, outValid := true } : State).outValid = true ∧ 16 < (17 : Word).toNat ∧
    ¬ 16 < (16 : Word).toNat := by decide

theorem witness_SqueezeEmptyFaults : Ready State.reset ∧ State.reset.outValid = false := ⟨ready_reset, rfl⟩

theorem witness_AccessMatrix : exec .new { State.reset with arg := 1 } = .next (after .new { State.reset with arg := 1 }) ∧
    issueFault .new { State.reset with arg := 1 } = none ∧ State.reset.fault = false ∧
    exec .sum State.reset = .next (after .sum State.reset) ∧
    exec .sum { State.reset with w := ramp } = .next (after .sum { State.reset with w := ramp }) ∧
    issueFault .sum State.reset = none ∧ issueFault .sum { State.reset with w := ramp } = none ∧ Ready State.reset :=
  ⟨rfl, by decide, rfl, rfl, rfl, by decide, by decide, ready_reset⟩

/-- A command whose own check fails at completion, the one way `exec` enters the fault state. -/
theorem witness_FailedChecksGuardEveryCommand : State.reset.fault = false ∧ (Instr.write 17).wellFormed = false ∧
    State.reset.arg = 0 ∧ State.reset.outValid = false ∧
    exec .squeeze State.reset = .next (raiseFault .squeezeEmpty State.reset) := ⟨rfl, by decide, rfl, rfl, rfl⟩

theorem witness_EveryFaultIsAtItsWrite : Inv aboutToFault ∧ aboutToFault.fault = false ∧
    step aboutToFault = .next (raiseFault .illegalCmd State.reset) ∧ (raiseFault .illegalCmd State.reset).fault = true ∧
    aboutToFault.busy = false ∧ (0x00 : Offset).toNat % 4 = 0 ∧ Inv permuting ∧ permuting.pending = some .permute :=
  ⟨inv_aboutToFault, rfl, rfl, rfl, rfl, rfl, inv_permuting, rfl⟩

/-- The host's next move is an aligned write, at the first and last offset of each clause: CMD, ARG, DIN0, DIN3, W0, W11, and of
those with no effect STATUS, DOUT0, DOUT3, 0x70, 0xFC. -/
theorem witness_RegWriteCases : State.reset.resetAsserted = false ∧
    ([0x00, 0x08, 0x20, 0x2C, 0x40, 0x6C, 0x04, 0x30, 0x3C, 0x70, 0xFC] : List Offset).all (fun a => a.toNat % 4 == 0) = true ∧
    (0x2C : Offset) = BitVec.ofNat 8 (0x20 + 4 * 3) ∧ (0x6C : Offset) = BitVec.ofNat 8 (0x40 + 4 * 11) ∧
    aboutToFault.events = .hostWrite .w32 0x00 0x00000000 :: [] ∧ permuting.fault = false ∧ permuting.busy = true ∧
    (raiseFault .illegalCmd State.reset).fault = true := by decide

theorem witness_WriteThenRead : Ready State.reset ∧ (0x20 : Offset).toNat % 4 = 0 ∧ (0x20 : Offset) ≠ 0x00 ∧
    ((0x20 : Offset) = 0x20 ∧ 0x20 ≤ (0x20 : Offset).toNat ∧ (0x20 : Offset).toNat ≤ 0x2C) :=
  ⟨ready_reset, by decide, by decide, by decide⟩

theorem witness_ReservedAndReadOnlyOffsets : Ready State.reset ∧
    ([0x18, 0x1C, 0x70, 0xFC, 0x04, 0x0C, 0x10, 0x14, 0x30, 0x3C, 0x00] : List Offset).all (fun a => a.toNat % 4 == 0) = true :=
  ⟨ready_reset, by decide⟩

/-- The host's next move is a read of STATUS, of DOUT3, of W11. -/
theorem witness_RegReadCases : State.reset.resetAsserted = false ∧ State.reset.fault = false ∧ State.reset.busy = false ∧
    ([0x04, 0x3C, 0x6C] : List Offset).all (fun a => a.toNat % 4 == 0) = true ∧
    ({ State.reset with events := [.hostRead .w32 0x04] } : State).events = .hostRead .w32 0x04 :: [] ∧
    (0x3C : Offset) = BitVec.ofNat 8 (0x30 + 4 * 3) := by decide

theorem witness_StatusLayout : State.reset.fault = false ∧ (raiseFault .busyViolation State.reset).fault = true ∧
    State.reset.resetAsserted = false ∧
    ({ State.reset with events := [.hostRead .w32 0x04] } : State).events = .hostRead .w32 0x04 :: [] := by decide

theorem witness_DoutShowsTheChunk : (3 < 4) ∧ Ready { State.reset with events := [.hostRead .w32 0x3C] } ∧
    ({ State.reset with events := [.hostRead .w32 0x3C] } : State).events =
      .hostRead .w32 (BitVec.ofNat 8 (0x30 + 4 * 3)) :: [] := ⟨by decide, ⟨rfl, rfl⟩, rfl⟩

theorem witness_BusyWriteFaults : permuting.resetAsserted = false ∧ permuting.fault = false ∧ permuting.busy = true ∧
    (0xFC : Offset).toNat % 4 = 0 ∧
    ({ permuting with events := [.hostWrite .w32 0xFC 1] } : State).events = .hostWrite .w32 0xFC 1 :: [] := by decide

/-- One word for each check of R207, and one that passes them all. -/
theorem witness_RegWriteChecksInOrder : State.reset.resetAsserted = false ∧ (0x00 : Offset).toNat % 4 = 0 ∧
    aboutToFault.events = .hostWrite .w32 0x00 0x00000000 :: [] ∧ legalWord 0x00000011 = false ∧ legalWord 0x00000001 = true ∧
    opField 0x00000001 = 0x1 ∧ State.reset.arg = 0 ∧ legalWord 0x00000005 = true ∧ opField 0x00000005 = 0x5 ∧
    State.reset.outValid = false ∧ legalWord 0x00000007 = true := by decide

/-- A faulted state with a move of each kind: none, a write, a read of STATUS, reset. -/
theorem witness_FaultStateIsSticky : (raiseFault .illegalCmd State.reset).fault = true ∧
    (raiseFault .illegalCmd State.reset).resetAsserted = false ∧ (raiseFault .illegalCmd State.reset).events = [] ∧
    (∃ t, step { raiseFault .illegalCmd State.reset with events := [.hostWrite .w32 0x08 5] } = .next t) ∧
    (∃ t, step { raiseFault .illegalCmd State.reset with events := [.hostRead .w32 0x04] } = .next t) ∧
    (∃ t, step { raiseFault .illegalCmd State.reset with events := [.resetAssert] } = .next t) :=
  ⟨rfl, rfl, rfl, ⟨_, rfl⟩, ⟨_, rfl⟩, ⟨_, rfl⟩⟩

theorem witness_UnacceptedAccessIsRefused : State.reset.resetAsserted = false ∧ AccessWidth.w8 ≠ .w32 ∧
    (0x22 : Offset).toNat % 4 ≠ 0 ∧ (0xFC : Offset).toNat % 4 = 0 ∧
    step { State.reset with events := [.hostRead .w8 0x04] } = .refused .busError ∧
    step { State.reset with events := [.hostWrite .w32 0x22 0] } = .refused .busError :=
  ⟨rfl, by decide, by decide, by decide, rfl, rfl⟩

theorem witness_ResetSetsEveryElement : ({ permuting with events := [.resetAssert] } : State).events = .resetAssert :: [] := rfl

/-- Reset is held, and the host still has a read to make. -/
def held : State := { State.reset with resetAsserted := true, events := [.resetRelease, .hostRead .w32 0x04] }

theorem inv_held : Inv held where
  busy_iff_pending := rfl
  pending_passed_issue := by intro i h; cases h
  length_positive := by decide
  valid_iff_remaining := by decide
  no_fault_code := fun _ => rfl
  fault_code := by intro h; cases h
  round_sound := by intro u h; cases h
  held_in_reset := fun _ => rfl

/-- One instance for each clause: reset asserted over a fault, released, an access while held, no move, a move of the engine, and
asserted again. -/
theorem witness_ResetLevelHoldsAndReleases :
    ({ raiseFault .illegalCmd State.reset with events := [.resetAssert] } : State).events = .resetAssert :: [] ∧
    held.events = .resetRelease :: [.hostRead .w32 0x04] ∧ held.resetAsserted = true ∧ Inv held ∧
    ({ held with events := [.hostRead .w32 0x04] } : State).events = .hostRead .w32 0x04 :: [] ∧
    ({ held with events := [] } : State).events = [] ∧
    ({ held with events := [.engineComplete] } : State).events = .engineComplete :: [] ∧
    ({ held with events := [.resetAssert] } : State).events = .resetAssert :: [] :=
  ⟨rfl, rfl, rfl, inv_held, rfl, rfl, rfl, rfl⟩

/-- R232: after release the block accepts an access at once. -/
theorem test_reset_release : step { held with events := [.resetRelease] } = .next State.reset := by rfl

theorem witness_StepRunsThePendingCommand : permuting.fault = false ∧ permuting.resetAsserted = false ∧
    permuting.pending = some .permute ∧ permuting.events = [] ∧
    ({ permuting with events := [.engineComplete] } : State).events = .engineComplete :: [] := by decide

theorem witness_PlacedWordRunsNext : decodeTableWord 32 0x00001003 = some (.write 16) := by decide

theorem witness_IssueThenComplete :
    Ready { State.reset with events := [.hostWrite .w32 0x00 (encode .permute), .engineComplete] } ∧
    Instr.permute.WellFormed ∧ issueFault .permute State.reset = none := ⟨⟨rfl, rfl⟩, by decide, by decide⟩

theorem witness_StepKeepsInv : Inv permuting ∧ step permuting = .next (after .permute permuting) := ⟨inv_permuting, rfl⟩

theorem witness_PendingCommandCompletes : Inv permuting ∧ permuting.resetAsserted = false ∧ permuting.busy = true ∧
    permuting.events = [] := ⟨inv_permuting, rfl, rfl, rfl⟩

/-- A next state, a fault, a refusal, and a move of the round unit. -/
theorem witness_HiddenRoundIsInvisible : (∃ t, step permuting = .next t) ∧
    step (raiseFault .illegalCmd State.reset) = .fault (.faultState 0x02) ∧
    step { State.reset with events := [.hostRead .w8 0x04] } = .refused .busError ∧
    ({ permuting with events := [.engineRound] } : State).events = .engineRound :: [] := ⟨⟨_, rfl⟩, rfl, rfl, rfl⟩

theorem witness_ContextIsUnreadable :
    ∀ k : Nat, k < outBytes { State.reset with q := 1, outValid := true } →
      stateByte #v[0xffffff00, 1, 2, 3, 4, 5, 6, 7, 8, 9, 10, 11] k = stateByte State.reset.f k := by decide

/-- A command's own writes, and the host's writes of ARG, DIN3 and W11, each changing what it writes. -/
theorem witness_WhoWritesEachElement : step permuting = .next (after .permute permuting) ∧
    permuting.events.head? ≠ some .resetAssert ∧ (after .permute permuting).w ≠ permuting.w ∧
    step { State.reset with events := [.hostWrite .w32 0x08 5] } = .next { State.reset with arg := 5 } ∧
    step { State.reset with events := [.hostWrite .w32 0x2C 5] } = .next { State.reset with din := #v[0, 0, 0, 5] } ∧
    step { State.reset with events := [.hostWrite .w32 0x6C 5] } =
      .next { State.reset with w := #v[0, 0, 0, 0, 0, 0, 0, 0, 0, 0, 0, 5] } ∧
    (0x2C : Offset) = BitVec.ofNat 8 (0x20 + 4 * 3) ∧ (0x6C : Offset) = BitVec.ofNat 8 (0x40 + 4 * 11) :=
  ⟨rfl, by decide, by decide, rfl, rfl, rfl, rfl, rfl⟩

theorem witness_SqueezedOutput : Ready State.reset ∧ State.reset.resetAsserted = false ∧ State.reset.l ≠ 0 ∧
    State.reset.l < (33 : Word) ∧ 1 < (32 + 15) / 16 := ⟨ready_reset, rfl, by decide, by decide, by decide⟩

/-- The host has a write of DIN0 and a read of it still to make. -/
def accessing : State := { State.reset with events := [.hostWrite .w32 0x20 5, .hostRead .w32 0x20] }

/-- After a SUM both accesses run, each a step that leaves the context alone, and the block is ready again; and a list of commands
between two SUMs. -/
theorem witness_SumIsIdempotent : Ready accessing ∧ accessing.resetAsserted = false ∧
    (∃ t, Relation.ReflTransGen ContextStep (doCommand .sum accessing) t ∧ t.events = [] ∧ Ready t ∧
      t.resetAsserted = false) ∧
    (∀ i ∈ [Instr.wclear, .osFinish 3], i.WellFormed ∧ writesContext i = false) ∧
    (doCommands [.wclear, .osFinish 3] (doCommand .sum accessing)).fault = false :=
  ⟨⟨rfl, rfl⟩, rfl,
    ⟨_, .tail (.tail .refl ⟨rfl, by decide, by intro i h; cases h⟩) ⟨rfl, by decide, by intro i h; cases h⟩,
      rfl, ⟨rfl, rfl⟩, rfl⟩,
    by decide, by decide⟩

theorem witness_OneShotEqualsStreaming : Ready { State.reset with w := ramp } ∧ State.reset.resetAsserted = false ∧
    Ready State.reset ∧ State.reset.a = SpongeState.zero ∧ State.reset.t = 0 ∧ State.reset.l = 32 ∧
    (∀ p ∈ ([[1], [2, 3]] : List (List Byte)), p.length ≤ 16) ∧ ([[1], [2, 3]] : List (List Byte)).flatten = [1, 2, 3] :=
  ⟨⟨rfl, rfl⟩, rfl, ready_reset, rfl, rfl, rfl, by decide, by decide⟩

theorem witness_OneShotLeavesTheContext : Ready { State.reset with a := ramp, t := 3 } ∧ State.reset.resetAsserted = false :=
  ⟨⟨rfl, rfl⟩, rfl⟩

end Sys2Proof.Tests
end

namespace Sys2Proof.Machine

/-! ### Byte lanes of words (10_state.md R23, R24) -/

/-- A lane of an XOR is the XOR of the lanes. -/
theorem laneByte_xor (x y : Word) (k : Nat) : laneByte (x ^^^ y) k = laneByte x k ^^^ laneByte y k := by
  simp only [laneByte, BitVec.ushiftRight_xor_distrib, BitVec.setWidth_xor]

/-- A byte placed in one lane of a word is seen in that lane and in no other. -/
theorem laneByte_laneWord (v : Byte) {i k : Nat} (hi : i < 4) (hk : k < 4) :
    laneByte (laneWord v i) k = if k = i then v else 0 := by
  ext b hb
  simp only [laneByte, laneWord, BitVec.getElem_setWidth, BitVec.getLsbD_ushiftRight, BitVec.getLsbD_shiftLeft,
    BitVec.getLsbD_setWidth]
  split
  next h =>
    subst h
    rw [Nat.add_sub_cancel_left, ← BitVec.getLsbD_eq_getElem hb]
    have : 8 * k + b < 32 ∧ b < 32 := by omega
    simp [this]
  next h =>
    by_cases hlt : 8 * k + b < 8 * i
    · simp [hlt]
    · have : v.getLsbD (8 * k + b - 8 * i) = false := BitVec.getLsbD_of_ge _ _ (by omega)
      simp [this]

/-- The byte view inside its range. -/
theorem stateByte_eq (S : SpongeState) {k : Nat} (hk : k < 48) : stateByte S k = laneByte S[k / 4] (k % 4) := by
  simp [stateByte, hk]

/-- `xor_byte` in the byte view: byte o is XORed by v and every other byte is kept. -/
theorem stateByte_xorByte (S : SpongeState) {o k : Nat} (v : Byte) (ho : o < 16) (hk : k < 48) :
    stateByte (xorByte S o v) k = if k = o then stateByte S k ^^^ v else stateByte S k := by
  rw [stateByte_eq _ hk, stateByte_eq _ hk, xorByte_getElem]
  by_cases hw : o / 4 = k / 4
  · have hlane : k % 4 = o % 4 ↔ k = o := by omega
    simp only [ho, hw, and_self, if_true, laneByte_xor]
    rw [laneByte_laneWord v (by omega) (by omega)]
    simp only [hlane]
    split <;> simp
  · have hne : k ≠ o := by rintro rfl; exact hw rfl
    simp [hw, hne]

/-- Settles O13: the byte view is `laneByte` of the word, and XORing a byte into one lane leaves the other lanes and words. -/
theorem xorByteChangesOneByte : Obligations.XorByteChangesOneByte := by
  refine ⟨fun S k hk => stateByte_eq S hk, fun S o v ho => ⟨fun k hk => stateByte_xorByte S v ho hk, fun j hj => ?_⟩⟩
  rw [xorByte_getElem]
  simp only [ho, true_and, eq_comm (a := j), laneWord]

/-! ### Reset (10_state.md R36) -/

/-- The step that asserts reset is a hardware reset with the level raised. -/
theorem step_resetAssert {s : State} {es : List Event} (h : s.events = .resetAssert :: es) :
    step s = .next (hardReset { s with events := es, resetAsserted := true }) := step_cons h

/-- Settles O46: asserting reset is `hardReset`, whose elements are those of `State.reset`. -/
theorem resetSetsEveryElement : Obligations.ResetSetsEveryElement := by
  refine ⟨fun s es h => ⟨_, step_resetAssert h, ?_⟩, ?_⟩ <;> simp [SpongeState.zero]

/-! ### STATUS (10_state.md R33) -/

/-- A flag word has its flag at bit 0 and zeros above. -/
@[simp] theorem getLsbD_flagWord (b : Bool) (i : Nat) : (flagWord b).getLsbD i = (decide (i = 0) && b) := by
  cases b <;> simp [flagWord, BitVec.getLsbD_one]

/-- At most the rate is presented, so OUT_BYTES fits its five bits. -/
theorem outBytes_le (s : State) : outBytes s ≤ 16 := by
  unfold outBytes
  split
  · exact Nat.min_le_left _ _
  · exact Nat.zero_le _

/-- OUT_BYTES has no bit above its five. -/
theorem outBytes_testBit_ge (s : State) {i : Nat} (hi : 5 ≤ i) : (outBytes s).testBit i = false :=
  Nat.testBit_eq_false_of_lt <|
    calc outBytes s < 2 ^ 5 := by have := outBytes_le s; omega
      _ ≤ 2 ^ i := Nat.pow_le_pow_right (by decide) hi

/-- STATUS in the fault state (R33). -/
theorem status_faulted {s : State} (hf : s.fault = true) :
    status s = (s.faultCode.setWidth 32 <<< 16) ||| 0x00000002 := by
  simp [status, hf]

/-- Every bit of STATUS while FAULT = 0: BUSY at 0, OUT_VALID at 2, OUT_BYTES from 8 up (R33). -/
theorem getLsbD_status {s : State} (hf : s.fault = false) (i : Nat) :
    (status s).getLsbD i = (decide (i = 0) && s.busy || decide (i = 2) && s.outValid ||
      decide (8 ≤ i) && (outBytes s).testBit (i - 8)) := by
  simp only [status, hf, Bool.false_eq_true, if_false, BitVec.getLsbD_or, BitVec.getLsbD_shiftLeft, getLsbD_flagWord,
    BitVec.getLsbD_ofNat]
  by_cases h : 13 ≤ i
  · have hb := outBytes_testBit_ge s (i := i - 8) (by omega)
    have : i ≠ 0 ∧ i ≠ 2 ∧ i - 2 ≠ 0 := by omega
    simp [hb, this]
  · have h32 : i < 32 ∧ i - 8 < 32 := by omega
    have h2 : ¬ i < 2 ∧ i - 2 = 0 ↔ i = 2 := by omega
    have h8 : ¬ i < 8 ↔ 8 ≤ i := by omega
    simp only [h32, decide_true, Bool.true_and, ← decide_not, h8, ← h2, Bool.decide_and, Bool.and_assoc]

/-- A field of STATUS that meets neither flag nor OUT_BYTES reads 0. -/
theorem status_extract_eq_zero {s : State} (hf : s.fault = false) (start len : Nat)
    (h : 13 ≤ start ∨ (3 ≤ start ∧ start + len ≤ 8)) : (status s).extractLsb' start len = 0 := by
  ext i hi
  rw [BitVec.getElem_extractLsb', getLsbD_status hf]
  have h0 : decide (start + i = 0) = false := decide_eq_false (by omega)
  have h2 : decide (start + i = 2) = false := decide_eq_false (by omega)
  rw [h0, h2]
  by_cases hb : 8 ≤ start + i
  · simp [outBytes_testBit_ge s (i := start + i - 8) (by omega)]
  · simp [hb]

/-- The field OUT_BYTES of STATUS is OUT_BYTES (R33). -/
theorem status_extract_outBytes {s : State} (hf : s.fault = false) :
    (status s).extractLsb' 8 5 = BitVec.ofNat 5 (outBytes s) := by
  ext i hi
  rw [BitVec.getElem_extractLsb', getLsbD_status hf]
  have h2 : 8 + i ≠ 2 := by omega
  rw [← BitVec.getLsbD_eq_getElem hi, BitVec.getLsbD_ofNat]
  simp [h2, hi]

/-- Reading STATUS is exact at every moment and draws no free value (R33). -/
theorem regRead_status (s : State) : regRead 0x04 s = { s with replies := status s :: s.replies } := rfl

/-- The step that reads STATUS with reset released (R33). -/
theorem step_readStatus {s : State} {es : List Event} (hr : s.resetAsserted = false)
    (h : s.events = .hostRead .w32 0x04 :: es) :
    step s = .next { s with events := es, replies := status s :: s.replies } := by
  rw [step_cons h]
  simp only [takeEvent, hostRead, hr, Bool.false_eq_true, if_false]
  rfl

/-- Settles O40, bit by bit: every field of STATUS is a range of the bits `getLsbD_status` gives. -/
theorem statusLayout : Obligations.StatusLayout := by
  intro s
  refine ⟨fun hf => ⟨?busy, ?fault, ?valid, ?low, ?bytes, ?mid, ?code, ?high⟩, status_faulted,
    fun hr _ h => step_readStatus hr h⟩
  case busy => rw [getLsbD_status hf]; simp
  case fault => rw [getLsbD_status hf]; simp
  case valid => rw [getLsbD_status hf]; simp
  case low => exact status_extract_eq_zero hf 3 5 (by decide)
  case bytes =>
    have hlt : outBytes s < 2 ^ 5 := by have := outBytes_le s; omega
    rw [status_extract_outBytes hf, BitVec.toNat_ofNat, Nat.mod_eq_of_lt hlt]
    rfl
  case mid => exact status_extract_eq_zero hf 13 3 (by decide)
  case code => exact status_extract_eq_zero hf 16 8 (by decide)
  case high => exact status_extract_eq_zero hf 24 8 (by decide)

/-! ### The access matrix (10_state.md R37) -/

/-- SQUEEZE's effect field by field: it writes F, Q and OUT_VALID only (43_finalize_squeeze.md R163). -/
theorem squeezeEffect_eq (s : State) :
    squeezeEffect s = { s with
      f := if 16 < s.q then perm s.f else s.f
      q := if 16 < s.q then s.q - 16 else 0
      outValid := if 16 < s.q then s.outValid else false } := by
  unfold squeezeEffect
  split <;> rfl

/-- Columns A and T: written by NEW, RESET and WRITE only. -/
theorem commandEffect_a_t {i : Instr} (s : State) (hi : i ∉ [.new, .reset]) (hw : ∀ n, i ≠ .write n) :
    (commandEffect i s).a = s.a ∧ (commandEffect i s).t = s.t := by
  cases i with
  | new => simp at hi
  | reset => simp at hi
  | write n => exact absurd rfl (hw n)
  | squeeze => simp [commandEffect, squeezeEffect_eq]
  | sum | wclear | permute | absorbBlock | absorbByte | osFinish => exact ⟨rfl, rfl⟩

/-- Column L: written by NEW only. -/
theorem commandEffect_l {i : Instr} (s : State) (hi : i ≠ .new) : (commandEffect i s).l = s.l := by
  cases i with
  | new => exact absurd rfl hi
  | squeeze => simp [commandEffect, squeezeEffect_eq]
  | reset | write | sum | wclear | permute | absorbBlock | absorbByte | osFinish => rfl

/-- Column W: written by WCLEAR, PERMUTE, ABSORB_BLOCK, ABSORB_BYTE and OS_FINISH only. -/
theorem commandEffect_w {i : Instr} (s : State) (hi : i ∉ [.wclear, .permute, .absorbBlock])
    (hb : ∀ o b, i ≠ .absorbByte o b) (ho : ∀ o, i ≠ .osFinish o) : (commandEffect i s).w = s.w := by
  cases i with
  | wclear => simp at hi
  | permute => simp at hi
  | absorbBlock => simp at hi
  | absorbByte o b => exact absurd rfl (hb o b)
  | osFinish o => exact absurd rfl (ho o)
  | squeeze => simp [commandEffect, squeezeEffect_eq]
  | new | reset | write | sum => rfl

/-- Columns F, Q and OUT_VALID: written by SUM, SQUEEZE and OS_FINISH only. -/
theorem commandEffect_squeezer {i : Instr} (s : State) (hi : i ∉ [.sum, .squeeze]) (ho : ∀ o, i ≠ .osFinish o) :
    (commandEffect i s).f = s.f ∧ (commandEffect i s).q = s.q ∧ (commandEffect i s).outValid = s.outValid := by
  cases i with
  | sum => simp at hi
  | squeeze => simp at hi
  | osFinish o => exact absurd rfl (ho o)
  | new | reset | write | wclear | permute | absorbBlock | absorbByte => exact ⟨rfl, rfl, rfl⟩

/-- A command that runs with its checks passed leaves its effect, retired. -/
theorem exec_eq_retire_of_passed {i : Instr} {s t : State} (hf : s.fault = false) (hi : issueFault i s = none)
    (h : exec i s = .next t) : t = retire (commandEffect i s) := by
  rw [exec_eq_runCommand, runCommand_ok hf hi] at h
  injection h with h
  exact h.symm

/-- A CMD write to a ready block is `issue` (30_encoding.md R77). -/
theorem regWrite_cmd {s : State} (h : Ready s) (v : Word) : regWrite 0x00 v s = issue v s :=
  regWrite_ready h.1 h.2

/-- Issuing a command writes no element of the access matrix, whether it is accepted or faults. -/
theorem issue_frame (v : Word) (s : State) :
    (issue v s).a = s.a ∧ (issue v s).t = s.t ∧ (issue v s).l = s.l ∧ (issue v s).w = s.w ∧ (issue v s).f = s.f ∧
    (issue v s).q = s.q ∧ (issue v s).outValid = s.outValid ∧ (issue v s).din = s.din ∧ (issue v s).arg = s.arg := by
  obtain ⟨-, h⟩ | ⟨-, c, -, -, h⟩ | ⟨i, -, -, h⟩ := issue_cases v s <;> simp [h]

/-- Settles O33: the columns from the effects' frames through `exec_cases`, what is read from each command's own effect, and
issue from `issue_frame`. -/
theorem accessMatrix : Obligations.AccessMatrix := by
  refine ⟨?writes, ?reads, fun v s h => regWrite_cmd h v ▸ issue_frame v s⟩
  case writes =>
    intro i s t h
    obtain ⟨hf, rfl⟩ | ⟨hf, c, -, rfl⟩ | ⟨hf, -, rfl⟩ := exec_cases h
    · simp
    · simp
    · obtain ⟨hdin, harg, hfault, -⟩ := commandEffect_frame i s
      refine ⟨⟨hdin, harg⟩, commandEffect_a_t s, commandEffect_l s, commandEffect_w s, commandEffect_squeezer s, ?_⟩
      simp [hfault, hf]
  case reads =>
    intro i s s' t t' hf hf' hi hi' h h'
    obtain rfl := exec_eq_retire_of_passed hf hi h
    obtain rfl := exec_eq_retire_of_passed hf' hi' h'
    cases i with
    | new => intro harg; exact ⟨rfl, rfl, harg⟩
    | reset => exact ⟨rfl, rfl⟩
    | write n => intro ha ht hdin; simp [commandEffect, writeEffect, pendingBytes, ha, ht, hdin]
    | sum => intro ha ht hl; simp [commandEffect, sumEffect, pendingBytes, ha, ht, hl]
    | squeeze => intro hff hq hv; simp [commandEffect, squeezeEffect_eq, hff, hq, hv]
    | wclear => rfl
    | permute => intro hw; simp [commandEffect, permuteEffect, hw]
    | absorbBlock => intro hw hdin; simp [commandEffect, absorbBlockEffect, hw, hdin]
    | absorbByte off byte => intro hw; simp [commandEffect, absorbByteEffect, hw]
    | osFinish off => intro hw; simp [commandEffect, osFinishEffect, hw]

end Sys2Proof.Machine

namespace Sys2Proof.Machine

/-! ### The register window: the register at an offset, and which accesses are accepted (20_memory.md R51-R53) -/

/-- The DIN registers stand at 0x20 + 4j. -/
theorem regAt_din (j : Fin 4) : regAt (BitVec.ofNat 8 (0x20 + 4 * j)) = .din j := by revert j; decide

/-- The DOUT registers stand at 0x30 + 4j. -/
theorem regAt_dout (j : Fin 4) : regAt (BitVec.ofNat 8 (0x30 + 4 * j)) = .dout j := by revert j; decide

/-- The W registers stand at 0x40 + 4i. -/
theorem regAt_w (i : Fin 12) : regAt (BitVec.ofNat 8 (0x40 + 4 * i)) = .w i := by revert i; decide

/-- The aligned offsets without a register. -/
theorem regAt_reserved {a : Offset} (h : a = 0x18 ∨ a = 0x1C ∨ 0x70 ≤ a.toNat) : regAt a = .reserved := by
  obtain rfl | rfl | h := h
  · rfl
  · rfl
  · simp (disch := omega) only [regAt, if_neg]

/-- Outside CMD, ARG, DIN and W a write stores nothing (R53). -/
theorem writeReg_regAt_of_not_writable {a : Offset} (v : Word) (s : State) (hcmd : a ≠ 0x00) (harg : a ≠ 0x08)
    (hdin : ¬ (0x20 ≤ a.toNat ∧ a.toNat ≤ 0x2C)) (hw : ¬ (0x40 ≤ a.toNat ∧ a.toNat ≤ 0x6C)) :
    writeReg (regAt a) v s = s := by
  have hcmd' : a.toNat ≠ 0x00 := fun h => hcmd (BitVec.eq_of_toNat_eq h)
  have harg' : a.toNat ≠ 0x08 := fun h => harg (BitVec.eq_of_toNat_eq h)
  simp only [regAt, hcmd', harg', hdin, hw, if_false]
  split_ifs <;> rfl

/-- The accepted accesses are the aligned 32-bit ones (R52). -/
theorem accessOk_iff {width : AccessWidth} {a : Offset} :
    accessOk width a = true ↔ width = .w32 ∧ a.toNat % 4 = 0 := by
  simp [accessOk]

/-- The step that takes a host write with reset released: RegWrite if the access is accepted, else a bus error. -/
theorem step_hostWrite {s : State} {width : AccessWidth} {a : Offset} {v : Word} {es : List Event}
    (hr : s.resetAsserted = false) (h : s.events = .hostWrite width a v :: es) :
    step s = if accessOk width a then .next (regWrite a v { s with events := es }) else .refused .busError := by
  rw [step_cons h]
  simp [takeEvent, hostWrite, hr]

/-- The step that takes a host read with reset released: RegRead if the access is accepted, else a bus error. -/
theorem step_hostRead {s : State} {width : AccessWidth} {a : Offset} {es : List Event}
    (hr : s.resetAsserted = false) (h : s.events = .hostRead width a :: es) :
    step s = if accessOk width a then .next (regRead a { s with events := es }) else .refused .busError := by
  rw [step_cons h]
  simp [takeEvent, hostRead, hr]

/-- Settles O45: a host access, write or read, goes on exactly when it is accepted (`accessOk_iff`). -/
theorem unacceptedAccessIsRefused : Obligations.UnacceptedAccessIsRefused := by
  intro s width a v es h hr
  have hstep : ∃ t, step s = if accessOk width a then .next t else .refused .busError :=
    h.elim (fun h => ⟨_, step_hostWrite hr h⟩) (fun h => ⟨_, step_hostRead hr h⟩)
  obtain ⟨t, hstep⟩ := hstep
  refine ⟨fun hbad => ?_, fun hwidth halign => ⟨t, ?_⟩⟩
  · rw [hstep, if_neg]
    intro hok
    obtain ⟨hwidth, halign⟩ := accessOk_iff.mp hok
    exact hbad.elim (absurd hwidth) (absurd halign)
  · rw [hstep, if_pos (accessOk_iff.mpr ⟨hwidth, halign⟩)]

/-! ### RegWrite (20_memory.md R58) -/

/-- Issuing a command leaves the moves still to come. -/
@[simp] theorem issue_events (v : Word) (s : State) : (issue v s).events = s.events := by
  obtain ⟨-, h⟩ | ⟨-, c, -, -, h⟩ | ⟨i, -, -, h⟩ := issue_cases v s <;> simp [h]

/-- Writing a register leaves the moves still to come. -/
@[simp] theorem writeReg_events (r : Reg) (v : Word) (s : State) : (writeReg r v s).events = s.events := by
  cases r with
  | cmd => exact issue_events v s
  | status | arg | outlen | blocksize | outrem | din | dout | w | reserved => rfl

/-- A violation leaves the moves still to come. -/
@[simp] theorem violateBusy_events (s : State) : (violateBusy s).events = s.events := by
  obtain ⟨-, -, -, -, -, -, -, h, -⟩ := violateBusy_frame s
  exact h

/-- RegWrite leaves the moves still to come. -/
@[simp] theorem regWrite_events (a : Offset) (v : Word) (s : State) : (regWrite a v s).events = s.events := by
  unfold regWrite
  split_ifs <;> simp

/-- Settles O36: the branches of RegWrite, and on a ready block the register at the offset. -/
theorem regWriteCases : Obligations.RegWriteCases := by
  intro s a v es hr halign h
  have hstep := step_hostWrite hr h
  rw [if_pos (accessOk_iff.mpr ⟨rfl, halign⟩)] at hstep
  refine ⟨_, hstep, regWrite_events .., fun hf => regWrite_faulted hf, fun hf hb => ?busy, fun hf hb => ?ready⟩
  case busy =>
    rw [regWrite_busy (s := { s with events := es }) hf hb]
    obtain ⟨hfault, hcode, hpending, hbusy, -⟩ := violateBusy_frame { s with events := es }
    exact ⟨hfault, hcode, hpending, hbusy⟩
  case ready =>
    rw [regWrite_ready (s := { s with events := es }) hf hb]
    refine ⟨?cmd, ?arg, ?din, ?w, writeReg_regAt_of_not_writable v _⟩
    case cmd => rintro rfl; rfl
    case arg => rintro rfl; rfl
    case din => rintro j hj rfl; rw [regAt_din ⟨j, hj⟩]; rfl
    case w => rintro i hi rfl; rw [regAt_w ⟨i, hi⟩]; rfl

/-! ### RegRead (20_memory.md R59) -/

/-- A read that is not free shows the register and draws no free value. -/
theorem regRead_of_not_free {a : Offset} {s : State} (h : readIsFree (regAt a) s = false) :
    regRead a s = { s with replies := readReg (regAt a) s :: s.replies } := by
  simp [regRead, h]

/-- On a ready block no read is free (R63). -/
theorem readIsFree_ready {s : State} (h : Ready s) (r : Reg) : readIsFree r s = false := by
  simp [readIsFree, h.1, h.2]

/-- What a read returns, where it is not free, is the register at the offset. -/
theorem regRead_value (a : Offset) (s : State) :
    ∃ v k, regRead a s = { s with replies := v :: s.replies, freeIx := k } ∧
      (readIsFree (regAt a) s = false → v = readReg (regAt a) s) := by
  cases hfree : readIsFree (regAt a) s with
  | false => exact ⟨_, s.freeIx, regRead_of_not_free hfree, fun _ => rfl⟩
  | true =>
    obtain ⟨v, k, h⟩ := regRead_eq a s
    exact ⟨v, k, h, nofun⟩

/-- Settles O39: a read of STATUS, and any read on a ready block, is not free, and shows the register at the offset. -/
theorem regReadCases : Obligations.RegReadCases := by
  intro s a es hr halign h
  have hstep := step_hostRead hr h
  rw [if_pos (accessOk_iff.mpr ⟨rfl, halign⟩)] at hstep
  obtain ⟨v, k, hread, hvalue⟩ := regRead_value a { s with events := es }
  rw [hread] at hstep
  refine ⟨v, k, hstep, ?status, fun hf hb => ?ready⟩
  case status => rintro rfl; exact hvalue rfl
  case ready =>
    replace hvalue := hvalue (readIsFree_ready ⟨hf, hb⟩ _)
    refine ⟨?cmd, ?arg, ?outlen, ?blocksize, ?outrem, ?din, ?dout, ?w, ?reserved⟩
    case cmd | arg | outlen | blocksize | outrem => rintro rfl; exact hvalue
    case din => rintro j hj rfl; rw [regAt_din ⟨j, hj⟩] at hvalue; exact hvalue
    case dout => rintro j hj rfl; rw [regAt_dout ⟨j, hj⟩] at hvalue; exact hvalue
    case w => rintro i hi rfl; rw [regAt_w ⟨i, hi⟩] at hvalue; exact hvalue
    case reserved => intro ha; rw [regAt_reserved ha] at hvalue; exact hvalue

/-- Settles O38: neither kind of offset is writable, and reserved offsets and CMD read 0. -/
theorem reservedAndReadOnlyOffsets : Obligations.ReservedAndReadOnlyOffsets := by
  intro s a v hready _
  refine ⟨fun ha => ?write, fun ha => ?read⟩
  case write =>
    rw [regWrite_ready hready.1 hready.2]
    apply writeReg_regAt_of_not_writable <;> bv_omega
  case read =>
    rw [regRead_of_not_free (readIsFree_ready hready _)]
    obtain ha | rfl := ha
    · rw [regAt_reserved ha]; rfl
    · rfl

end Sys2Proof.Machine

namespace Sys2Proof

open Machine

/-! ### Fields of a word (30_encoding.md R70) -/

/-- The bits of the field of `len` bits at `start`. -/
def fieldMask (start len : Nat) : Word := (BitVec.allOnes len).setWidth 32 <<< start

/-- A field put back in its place is the word's own bits there. -/
theorem extractLsb'_shiftLeft_eq_and_fieldMask (v : Word) (start len : Nat) :
    (v.extractLsb' start len).setWidth 32 <<< start = v &&& fieldMask start len := by
  ext i hi
  simp only [fieldMask, BitVec.getElem_shiftLeft, BitVec.getElem_and, BitVec.getElem_setWidth, BitVec.getLsbD_extractLsb',
    BitVec.getLsbD_allOnes]
  by_cases h : i < start
  · simp [h]
  · have hsum : start + (i - start) = i := by omega
    simp [h, hsum, hi, Bool.and_comm]

/-- A value shifted into a field is read back from it. -/
theorem extractLsb'_setWidth_shiftLeft_same {len : Nat} (x : BitVec len) {start : Nat} (h : start + len ≤ 32) :
    (x.setWidth 32 <<< start).extractLsb' start len = x := by
  ext i hi
  have : start + i < 32 ∧ i < 32 := by omega
  simp [this, BitVec.getLsbD_eq_getElem hi]

/-- A value shifted into a field is not seen in a field below or above it. -/
theorem extractLsb'_setWidth_shiftLeft_disjoint {w : Nat} (x : BitVec w) {start start' len' : Nat}
    (h : start' + len' ≤ start ∨ start + w ≤ start') : (x.setWidth 32 <<< start).extractLsb' start' len' = 0 := by
  ext i hi
  simp only [BitVec.getElem_extractLsb', BitVec.getLsbD_shiftLeft, BitVec.getLsbD_setWidth]
  by_cases hlt : start' + i < start
  · simp [hlt]
  · have : x.getLsbD (start' + i - start) = false := BitVec.getLsbD_of_ge _ _ (by omega)
    simp [this]

/-- N of a WRITE's word. -/
@[simp] theorem countField_encode_write (n : BitVec 5) : countField (encode (.write n)) = n := by
  simp only [countField, encode, BitVec.extractLsb'_or]
  rw [extractLsb'_setWidth_shiftLeft_same n (by decide)]
  exact BitVec.zero_or

/-- OFF of an OS_FINISH's word. -/
@[simp] theorem offField_encode_osFinish (off : BitVec 4) : offField (encode (.osFinish off)) = off := by
  simp only [offField, encode, BitVec.extractLsb'_or]
  rw [extractLsb'_setWidth_shiftLeft_same off (by decide)]
  exact BitVec.zero_or

/-- OFF of an ABSORB_BYTE's word. -/
@[simp] theorem offField_encode_absorbByte (off : BitVec 4) (byte : Byte) :
    offField (encode (.absorbByte off byte)) = off := by
  simp only [offField, encode, BitVec.extractLsb'_or]
  rw [extractLsb'_setWidth_shiftLeft_same off (by decide), extractLsb'_setWidth_shiftLeft_disjoint byte (.inl (by decide))]
  exact BitVec.or_zero.trans BitVec.zero_or

/-- BYTE of an ABSORB_BYTE's word. -/
@[simp] theorem byteField_encode_absorbByte (off : BitVec 4) (byte : Byte) :
    byteField (encode (.absorbByte off byte)) = byte := by
  simp only [byteField, encode, BitVec.extractLsb'_or]
  rw [extractLsb'_setWidth_shiftLeft_same byte (by decide), extractLsb'_setWidth_shiftLeft_disjoint off (.inr (by decide))]
  exact BitVec.zero_or

/-- OP of a command's word is its opcode (R71). -/
@[simp] theorem opField_encode (i : Instr) : opField (encode i) = i.opcode :=
  match i with
  | .new => Laws.EncodedOpcode.new.1
  | .reset => Laws.EncodedOpcode.reset.1
  | .write n => (Laws.EncodedOpcode.write n).1
  | .sum => Laws.EncodedOpcode.sum.1
  | .squeeze => Laws.EncodedOpcode.squeeze.1
  | .wclear => Laws.EncodedOpcode.wclear.1
  | .permute => Laws.EncodedOpcode.permute.1
  | .absorbBlock => Laws.EncodedOpcode.absorbBlock.1
  | .absorbByte off byte => (Laws.EncodedOpcode.absorbByte off byte).1
  | .osFinish off => (Laws.EncodedOpcode.osFinish off).1

/-! ### The rows of the opcode map and the encoder (30_encoding.md R76) -/

/-- The word of the command a row builds: the row's pattern, and `v`'s bits outside the row's mask. -/
theorem encode_build {r : OpcodeRow} (hr : r ∈ opcodeRows) (v : Word) :
    encode (r.build v) = r.pattern ||| (v &&& ~~~r.mask) := by
  have hfieldless (c : Word) : c = c ||| (v &&& ~~~0xFFFFFFFF) := by
    rw [show ~~~(0xFFFFFFFF : Word) = 0 from rfl]; simp
  simp only [opcodeRows, List.mem_cons, List.not_mem_nil, or_false] at hr
  obtain rfl | rfl | rfl | rfl | rfl | rfl | rfl | rfl | rfl | rfl := hr
  · exact hfieldless _
  · exact hfieldless _
  · exact congrArg (_ ||| ·) (extractLsb'_shiftLeft_eq_and_fieldMask v 8 5)
  · exact hfieldless _
  · exact hfieldless _
  · exact hfieldless _
  · exact hfieldless _
  · exact hfieldless _
  · simp only [encode, offField, byteField, extractLsb'_shiftLeft_eq_and_fieldMask, BitVec.or_assoc,
      ← BitVec.and_or_distrib_left]
    rfl
  · exact congrArg (_ ||| ·) (extractLsb'_shiftLeft_eq_and_fieldMask v 4 4)

/-- A word that matches a row is the word of the command the row builds from it: no bit is dropped. -/
theorem encode_build_of_matches {r : OpcodeRow} (hr : r ∈ opcodeRows) {v : Word} (h : r.matches v = true) :
    encode (r.build v) = v := by
  have hpattern : v &&& r.mask = r.pattern := by simpa [OpcodeRow.matches] using h
  calc encode (r.build v) = (v &&& r.mask) ||| (v &&& ~~~r.mask) := by rw [encode_build hr, hpattern]
    _ = v := by ext i hi; simp [← Bool.and_or_distrib_left]

/-- The word of a command a row builds matches that row. -/
theorem matches_encode_build {r : OpcodeRow} (hr : r ∈ opcodeRows) (v : Word) :
    r.matches (encode (r.build v)) = true := by
  have hpattern : r.pattern &&& r.mask = r.pattern := by
    simpa using List.all_eq_true.mp opcodeRows_patterns r hr
  have hrest : v &&& ~~~r.mask &&& r.mask = 0 := by ext i hi; simp
  simp [OpcodeRow.matches, encode_build hr, BitVec.and_or_distrib_right, hpattern, hrest]

/-- Some row builds the command from its own word: the row of its opcode, which reads back each operand. -/
theorem exists_row_build_encode (i : Instr) : ∃ r ∈ opcodeRows, r.build (encode i) = i := by
  cases i <;> simp [opcodeRows]

/-- The words some row matches are the words of commands. -/
theorem exists_row_matches_iff {v : Word} : (∃ r ∈ opcodeRows, r.matches v = true) ↔ ∃ i, encode i = v := by
  constructor
  · rintro ⟨r, hr, h⟩
    exact ⟨r.build v, encode_build_of_matches hr h⟩
  · rintro ⟨i, rfl⟩
    obtain ⟨r, hr, hbuild⟩ := exists_row_build_encode i
    have hmatch := matches_encode_build hr (encode i)
    rw [hbuild] at hmatch
    exact ⟨r, hr, hmatch⟩

/-! ### Legal words (30_encoding.md R77, R78) -/

/-- No command has a reserved opcode. -/
@[simp] theorem reservedOpcode_opcode (i : Instr) : reservedOpcode i.opcode = false := by cases i <;> rfl

/-- The one operand check (R73). -/
@[simp] theorem wellFormed_write {n : BitVec 5} : (Instr.write n).WellFormed ↔ n ≤ 16 := decide_eq_true_iff

/-- A command is well formed when its word passes the count check. -/
theorem wellFormed_iff_count {i : Instr} :
    i.WellFormed ↔ (opField (encode i) != 0x3 || decide (countField (encode i) ≤ 16)) = true := by
  rw [opField_encode]
  cases i with
  | write n => simp [Instr.opcode]
  | new | reset | sum | squeeze | wclear | permute | absorbBlock | absorbByte | osFinish => exact iff_of_true rfl rfl

/-- The legal words are the words of the well-formed commands. -/
theorem legalWord_iff {v : Word} : legalWord v = true ↔ ∃ i : Instr, i.WellFormed ∧ encode i = v := by
  rw [legalWord, Bool.and_eq_true, List.any_eq_true, exists_row_matches_iff]
  constructor
  · rintro ⟨⟨i, rfl⟩, hcount⟩
    exact ⟨i, wellFormed_iff_count.mpr hcount, rfl⟩
  · rintro ⟨i, hi, rfl⟩
    exact ⟨⟨i, rfl⟩, wellFormed_iff_count.mp hi⟩

/-- What the decoder accepts is the word of a well-formed command. -/
theorem wellFormed_and_encode_of_decode_ok {v : Word} {i : Instr} (h : decode v = .ok i) :
    i.WellFormed ∧ encode i = v := by
  unfold decode at h
  split at h
  next r hfind =>
    split_ifs at h with hwf
    injection h with h
    have hmatch := List.find?_some hfind
    exact h ▸ ⟨hwf, encode_build_of_matches (List.mem_of_find?_eq_some hfind) hmatch⟩
  next => split_ifs at h

/-- The decoder refuses every illegal word. -/
theorem decode_error_of_not_legalWord {v : Word} (h : legalWord v = false) : ∃ e, decode v = .error e := by
  cases hd : decode v with
  | error e => exact ⟨e, rfl⟩
  | ok i => simp [legalWord_iff.mpr ⟨i, wellFormed_and_encode_of_decode_ok hd⟩] at h

/-- A word with a reserved opcode matches no row, and the decoder says so. -/
theorem decode_of_reservedOpcode {v : Word} (h : reservedOpcode (opField v) = true) :
    decode v = .error .reservedOpcode := by
  have hnone : opcodeRows.find? (fun r => r.matches v) = none := by
    rw [List.find?_eq_none]
    intro r hr hmatch
    rw [← encode_build_of_matches hr hmatch, opField_encode, reservedOpcode_opcode] at h
    cases h
  simp [decode, hnone, h]

/-- A CMD write of a word the decoder refuses is the fault entry of ILLEGAL_CMD (60_exceptions.md R203). -/
theorem regWrite_cmd_of_decode_error {v : Word} {e : DecodeError} {s : State} (h : Ready s)
    (hd : decode v = .error e) : regWrite 0x00 v s = raiseFault .illegalCmd s := by
  rw [regWrite_cmd h, issue, hd]

/-- Settles O4: no row has a reserved opcode, so the decoder refuses the word and CMD faults. -/
theorem reservedOpcodeIsIllegal : Obligations.ReservedOpcodeIsIllegal := by
  intro v hop
  have hdecode : decode v = .error .reservedOpcode := decode_of_reservedOpcode (by simpa [reservedOpcode] using hop)
  exact ⟨hdecode, fun s hs => regWrite_cmd_of_decode_error hs hdecode⟩

/-! ### Counting the legal words (30_encoding.md R80) -/

/-- The opcodes whose command has no field. -/
def fieldlessOpcodes : List (BitVec 4) := [0x1, 0x2, 0x4, 0x5, 0x6, 0x7, 0x8]

/-- The commands with no field. -/
def fieldlessCommands : List Instr := [.new, .reset, .sum, .squeeze, .wclear, .permute, .absorbBlock]

/-- How many legal words an opcode has (R80). -/
def opcodeWordCount (op : BitVec 4) : Nat :=
  if reservedOpcode op then 0 else if op = 0x3 then 17 else if op = 0x9 then 4096 else if op = 0xA then 16 else 1

/-- An opcode is reserved, or of a command without fields, or of WRITE, ABSORB_BYTE or OS_FINISH. -/
theorem opcode_cases (op : BitVec 4) :
    reservedOpcode op = true ∨ op ∈ fieldlessOpcodes ∨ op = 0x3 ∨ op = 0x9 ∨ op = 0xA := by
  revert op; decide

/-- The legal words with an opcode are the words of the well-formed commands with that opcode. -/
theorem legalWords_eq_image (op : BitVec 4) :
    { v : Word | legalWord v = true ∧ opField v = op } = encode '' { i | i.WellFormed ∧ i.opcode = op } := by
  ext v
  rw [Set.mem_ofPred_eq, legalWord_iff]
  constructor
  · rintro ⟨⟨i, hi, rfl⟩, hop⟩
    exact ⟨i, ⟨hi, opField_encode i ▸ hop⟩, rfl⟩
  · rintro ⟨i, ⟨hi, hop⟩, rfl⟩
    exact ⟨⟨i, hi, rfl⟩, opField_encode i ▸ hop⟩

/-- A reserved opcode has no command. -/
theorem commands_of_reserved {op : BitVec 4} (h : reservedOpcode op = true) :
    { i : Instr | i.WellFormed ∧ i.opcode = op } = ∅ := by
  rw [Set.eq_empty_iff_forall_notMem]
  rintro i ⟨-, rfl⟩
  simp at h

/-- A command is without fields when its opcode is. -/
theorem mem_fieldlessCommands {i : Instr} (h : i.opcode ∈ fieldlessOpcodes) : i ∈ fieldlessCommands := by
  cases i with
  | new | reset | sum | squeeze | wclear | permute | absorbBlock => simp [fieldlessCommands]
  | write | absorbByte | osFinish => simp [Instr.opcode, fieldlessOpcodes] at h

/-- A field-less opcode has one command. -/
theorem commands_of_fieldless {op : BitVec 4} (h : op ∈ fieldlessOpcodes) :
    ∃ i, { j : Instr | j.WellFormed ∧ j.opcode = op } = {i} := by
  have hexists : ∀ op ∈ fieldlessOpcodes, ∃ i ∈ fieldlessCommands, i.WellFormed ∧ i.opcode = op := by decide
  have hunique : ∀ i ∈ fieldlessCommands, ∀ j ∈ fieldlessCommands, j.opcode = i.opcode → j = i := by decide
  obtain ⟨i, hi, hwf, rfl⟩ := hexists op h
  refine ⟨i, Set.eq_singleton_iff_unique_mem.mpr ⟨⟨hwf, rfl⟩, ?_⟩⟩
  rintro j ⟨-, hj⟩
  exact hunique i hi j (mem_fieldlessCommands (hj ▸ h)) hj

/-- The well-formed commands with WRITE's opcode: a count up to 16. -/
theorem commands_write : { i : Instr | i.WellFormed ∧ i.opcode = 0x3 } = Instr.write '' { n | n ≤ 16 } := by
  ext i
  cases i <;> simp [Instr.opcode]

/-- The commands with ABSORB_BYTE's opcode: any offset and byte. -/
theorem commands_absorbByte :
    { i : Instr | i.WellFormed ∧ i.opcode = 0x9 } = Function.uncurry Instr.absorbByte '' Set.univ := by
  ext i
  cases i <;> simp [Instr.opcode, Instr.WellFormed, Instr.wellFormed]

/-- The commands with OS_FINISH's opcode: any offset. -/
theorem commands_osFinish : { i : Instr | i.WellFormed ∧ i.opcode = 0xA } = Instr.osFinish '' Set.univ := by
  ext i
  cases i <;> simp [Instr.opcode, Instr.WellFormed, Instr.wellFormed]

/-- Where the operands of an opcode's commands can be read back from the word, there is one legal word for each. -/
theorem ncard_legalWords_of_leftInverse {α : Type} {op : BitVec 4} {build : α → Instr} {operands : Set α}
    (hbuild : { i : Instr | i.WellFormed ∧ i.opcode = op } = build '' operands) (readBack : Word → α)
    (hread : ∀ x, readBack (encode (build x)) = x) :
    Set.ncard { v : Word | legalWord v = true ∧ opField v = op } = operands.ncard := by
  have hinj : Function.Injective (encode ∘ build) := Function.LeftInverse.injective (g := readBack) hread
  rw [legalWords_eq_image, hbuild, ← Set.image_comp, Set.ncard_image_of_injective _ hinj]

/-- A field of `n` bits has `2 ^ n` values. -/
theorem natCard_bitVec (n : Nat) : Nat.card (BitVec n) = 2 ^ n := by
  rw [Nat.card_congr BitVec.equivFin.toEquiv, Nat.card_fin]

/-- The count of a field-less opcode is 1. -/
theorem opcodeWordCount_fieldless : ∀ op ∈ fieldlessOpcodes, opcodeWordCount op = 1 := by decide

/-- R80's counts, opcode by opcode. -/
theorem ncard_legalWords_of_opcode (op : BitVec 4) :
    Set.ncard { v : Word | legalWord v = true ∧ opField v = op } = opcodeWordCount op := by
  obtain h | h | rfl | rfl | rfl := opcode_cases op
  · rw [legalWords_eq_image, commands_of_reserved h, Set.image_empty, Set.ncard_empty, opcodeWordCount, if_pos h]
  · obtain ⟨i, hi⟩ := commands_of_fieldless h
    rw [legalWords_eq_image, hi, Set.image_singleton, Set.ncard_singleton, opcodeWordCount_fieldless op h]
  · rw [ncard_legalWords_of_leftInverse commands_write countField countField_encode_write, Set.ncard_eq_toFinset_card']
    decide
  · rw [ncard_legalWords_of_leftInverse commands_absorbByte (fun v => (offField v, byteField v))
      (fun p => by simp [Function.uncurry]), Set.ncard_univ, Nat.card_prod, natCard_bitVec, natCard_bitVec]
    decide
  · rw [ncard_legalWords_of_leftInverse commands_osFinish offField offField_encode_osFinish, Set.ncard_univ,
      natCard_bitVec]
    decide

/-- The legal words are counted opcode by opcode. -/
theorem ncard_legalWords :
    Set.ncard { v : Word | legalWord v = true } = ∑ op : BitVec 4, opcodeWordCount op := by
  have hunion : { v : Word | legalWord v = true } = ⋃ op, { v : Word | legalWord v = true ∧ opField v = op } := by
    ext v; simp
  have hdisjoint : Pairwise (Function.onFun Disjoint fun op => { v : Word | legalWord v = true ∧ opField v = op }) := by
    intro op op' hne
    rw [Function.onFun, Set.disjoint_left]
    rintro v ⟨-, rfl⟩ ⟨-, hop⟩
    exact hne hop
  rw [hunion, Set.ncard_iUnion_of_finite (fun _ => Set.toFinite _) hdisjoint, finsum_eq_sum_of_fintype]
  exact Finset.sum_congr rfl fun op _ => ncard_legalWords_of_opcode op

/-- Settles O5: the legal words are those of the well-formed commands, counted opcode by opcode; the decoder refuses every
other word. -/
theorem legalWordCount : Obligations.LegalWordCount := by
  refine ⟨ncard_legalWords.trans (by decide), fun op hop => ?fieldless, ncard_legalWords_of_opcode 0x3,
    ncard_legalWords_of_opcode 0x9, ncard_legalWords_of_opcode 0xA, fun v s hv hs => ?illegal⟩
  case fieldless =>
    exact (ncard_legalWords_of_opcode op).trans (opcodeWordCount_fieldless op hop)
  case illegal =>
    obtain ⟨e, he⟩ := decode_error_of_not_legalWord hv
    exact regWrite_cmd_of_decode_error hs he

end Sys2Proof

namespace Sys2Proof.Machine

/-! ### The layers of a round and their order (40_permutation.md R101-R106) -/

/-- The shifts of `rotl32` make a rotation of the word. -/
theorem rotl32_eq_rotateLeft (x : Word) {n : Nat} (hn : n < 32) : rotl32 x n = x.rotateLeft n :=
  (BitVec.rotateLeft_eq_rotateLeftAux_of_lt hn).symm

/-- A column after the column layer is the SP-box of that column. -/
theorem columns_column (S : SpongeState) {i : Nat} (hi : i < 4) :
    ((columns S)[i], (columns S)[i + 4], (columns S)[i + 8]) = spbox S[i] S[i + 4] S[i + 8] := by
  match i, hi with
  | 0, _ => rfl
  | 1, _ => rfl
  | 2, _ => rfl
  | 3, _ => rfl

/-- Settles O7: a column of the column layer is the SP-box of that column, whose `rotl32` are rotations. -/
theorem columnsAreIndependentSpBoxes : Obligations.ColumnsAreIndependentSpBoxes := by
  intro S i hi
  have hcolumn := columns_column S hi
  simp only [spbox, rotl32_eq_rotateLeft _ (show 24 < 32 by decide), rotl32_eq_rotateLeft _ (show 9 < 32 by decide),
    Prod.mk.injEq] at hcolumn
  obtain ⟨ha, hb, hc⟩ := hcolumn
  exact ⟨hc, hb, ha⟩

/-- The low byte of the constant's fixed part is 0, so it shares no bit with a round index (R104). -/
theorem roundConstant_and_index_eq_zero {r : Nat} (hr : r < 256) : (0x9e377900 : Word) &&& BitVec.ofNat 32 r = 0#32 := by
  have hlow : ∀ b < 8, (0x9e377900 : Word).getLsbD b = false := by decide
  refine BitVec.eq_of_getLsbD_eq fun b _ => ?_
  rw [BitVec.getLsbD_and, BitVec.getLsbD_ofNat, BitVec.getLsbD_zero]
  by_cases hbyte : b < 8
  · rw [hlow b hbyte, Bool.false_and]
  · have hindex : r.testBit b = false :=
      Nat.testBit_lt_two_pow (hr.trans_le (Nat.pow_le_pow_right (n := 2) (by decide) (Nat.le_of_not_lt hbyte)))
    rw [hindex, Bool.and_false, Bool.and_false]

/-- Words with no bit in common have the same OR and XOR. -/
theorem or_eq_xor_of_and_eq_zero {x y : Word} (h : x &&& y = 0#32) : x ||| y = x ^^^ y := by
  ext b hb
  have hbit : (x[b] && y[b]) = false := by simpa using congrArg (·[b]) h
  cases hx : x[b] <;> simp_all

/-- The round constant as an XOR. -/
theorem roundConstant_eq_xor {r : Nat} (hr : r < 256) : roundConstant r = 0x9e377900 ^^^ BitVec.ofNat 32 r :=
  or_eq_xor_of_and_eq_zero (roundConstant_and_index_eq_zero hr)

/-- The round constant as a sum. -/
theorem roundConstant_eq_add {r : Nat} (hr : r < 256) : roundConstant r = 0x9e377900 + BitVec.ofNat 32 r :=
  (BitVec.add_eq_or_of_and_eq_zero _ _ (roundConstant_and_index_eq_zero hr)).symm

/-- The small swap with the constant: it lands on the word that came from S[1] (R103). -/
theorem addConstant_smallSwap (r : Nat) (S : SpongeState) :
    addConstant r (smallSwap S) =
      #v[S[1] ^^^ roundConstant r, S[0], S[3], S[2], S[4], S[5], S[6], S[7], S[8], S[9], S[10], S[11]] := rfl

/-- Settles O8: the linear layer by its branches; the constant by the disjointness of its two parts. -/
theorem linearLayerAndConstants : Obligations.LinearLayerAndConstants := by
  refine ⟨fun r S _ _ => ?layer, fun r hr => ?constant, by decide⟩
  case layer => rw [linear, addConstant_smallSwap, roundConstant, bigSwap]
  case constant => exact ⟨roundConstant_eq_xor (by omega), roundConstant_eq_add (by omega)⟩

/-- The rounds n, ..., 1 are the fold over the indices in descending order. -/
theorem roundsFrom_eq_foldl (n : Nat) (S : SpongeState) :
    roundsFrom n S = (List.range' 1 n).reverse.foldl (fun S r => spongeRound r S) S := by
  induction n generalizing S with
  | zero => rfl
  | succ n ih =>
    rw [roundsFrom, ih, List.range'_1_concat, List.reverse_append, List.reverse_singleton, List.singleton_append,
      List.foldl_cons, Nat.add_comm 1 n]

/-- Settles O9: P is the fold of the rounds over the descending indices, and a round is its two layers. -/
theorem permutationIsTheDescendingRounds : Obligations.PermutationIsTheDescendingRounds := fun S =>
  roundsFrom_eq_foldl Config.rounds S

end Sys2Proof.Machine

namespace Sys2Proof.Machine

/-! ### Bit vectors byte by byte -/

/-- A lane of a word is a byte of its bits. -/
theorem laneByte_eq_extractLsb' (x : Word) (k : Nat) : laneByte x k = x.extractLsb' (8 * k) 8 := by
  ext b hb
  simp [laneByte]

/-- A lane of an OR is the OR of the lanes. -/
theorem laneByte_or (x y : Word) (k : Nat) : laneByte (x ||| y) k = laneByte x k ||| laneByte y k := by
  simp only [laneByte_eq_extractLsb', BitVec.extractLsb'_or]

/-- Bit vectors with the same bytes are equal. -/
theorem eq_of_extract_byte_eq {w n : Nat} (hw : w ≤ 8 * n) {x y : BitVec w}
    (h : ∀ k < n, x.extractLsb' (8 * k) 8 = y.extractLsb' (8 * k) 8) : x = y := by
  refine BitVec.eq_of_getLsbD_eq fun i hi => ?_
  have hbit := congrArg (BitVec.getLsbD · (i % 8)) (h (i / 8) (by omega))
  simpa [BitVec.getLsbD_extractLsb', Nat.mod_lt, Nat.div_add_mod] using hbit

/-- A byte shifted to byte i of a bit vector is seen there and nowhere else. -/
theorem extract_byte_setWidth_shiftLeft {w : Nat} (v : Byte) (i : Nat) {k : Nat} (hk : 8 * k + 8 ≤ w) :
    (v.setWidth w <<< (8 * i)).extractLsb' (8 * k) 8 = if k = i then v else 0 := by
  ext b hb
  have hw : 8 * k + b < w := by omega
  rw [BitVec.getElem_extractLsb', BitVec.getLsbD_shiftLeft, BitVec.getLsbD_setWidth]
  obtain hlt | rfl | hgt := Nat.lt_trichotomy k i
  · have : 8 * k + b < 8 * i := by omega
    simp [this, hlt.ne]
  · simp [hw, show b < w by omega, BitVec.getLsbD_eq_getElem hb]
  · have : v.getLsbD (8 * k + b - 8 * i) = false := BitVec.getLsbD_of_ge _ _ (by omega)
    simp [this, hgt.ne']

/-! ### The byte_lane_multiplexer (41_absorbers.md R120) -/

/-- Word j of the rate is bits [32j+31 : 32j] of the rate port. -/
theorem getLsbD_rateBus (S : SpongeState) {j b : Nat} (hj : j < 4) (hb : b < 32) :
    (rateBus S).getLsbD (32 * j + b) = S[j].getLsbD b := by
  change (S[3] ++ S[2] ++ S[1] ++ S[0]).getLsbD (32 * j + b) = _
  have hbelow (n : Nat) : ¬ 32 * (n + 1) + b < 32 ∧ 32 * (n + 1) + b - 32 = 32 * n + b := by omega
  simp only [BitVec.getLsbD_append]
  match j, hj with
  | 0, _ => simp [hb]
  | 1, _ => simp [hb]
  | 2, _ => simp [hb, hbelow 1]
  | 3, _ => simp [hb, hbelow 1, hbelow 2]

/-- Byte k of the rate port is byte k of the State. -/
theorem rateBus_extract_byte (S : SpongeState) {k : Nat} (hk : k < 16) :
    (rateBus S).extractLsb' (8 * k) 8 = stateByte S k := by
  rw [stateByte_eq S (by omega), laneByte_eq_extractLsb']
  ext b hb
  have hpos : 8 * k + b = 32 * (k / 4) + (8 * (k % 4) + b) := by omega
  rw [BitVec.getElem_extractLsb', BitVec.getElem_extractLsb', hpos, getLsbD_rateBus S (by omega) (by omega)]

/-- `xor_byte` on the rate port: an XOR with the byte shifted to its offset. -/
theorem rateBus_xorByte (S : SpongeState) {o : Nat} (v : Byte) (ho : o < 16) :
    rateBus (xorByte S o v) = rateBus S ^^^ (v.setWidth 128 <<< (8 * o)) := by
  refine eq_of_extract_byte_eq (n := 16) (by decide) fun k hk => ?_
  rw [BitVec.extractLsb'_xor, extract_byte_setWidth_shiftLeft v o (by omega), rateBus_extract_byte _ hk,
    rateBus_extract_byte _ hk, stateByte_xorByte S v ho (by omega)]
  split <;> simp

/-- Settles O15: the two sides have the same sixteen bytes on the rate port. -/
theorem laneMultiplexerIsXorByte : Obligations.LaneMultiplexerIsXorByte := by
  intro S off val
  have hrate := rateBus_xorByte S val off.isLt
  exact ⟨hrate, hrate.symm, fun k hk => rateBus_extract_byte S hk, xorByte_capacity S off.toNat val⟩

/-! ### The block absorb (41_absorbers.md R122) -/

/-- States with the same bytes are equal. -/
theorem eq_of_stateByte_eq {S S' : SpongeState} (h : ∀ k < 48, stateByte S k = stateByte S' k) : S = S' := by
  refine Vector.ext fun j hj => eq_of_extract_byte_eq (n := 4) (by decide) fun k hk => ?_
  have hbyte := h (4 * j + k) (by omega)
  have hword : (4 * j + k) / 4 = j := by omega
  have hlane : (4 * j + k) % 4 = k := by omega
  rw [stateByte_eq _ (by omega), stateByte_eq _ (by omega)] at hbyte
  simpa only [hword, hlane, laneByte_eq_extractLsb'] using hbyte

/-- Lane k of the little-endian word j is byte 4j + k of the list. -/
theorem laneByte_blockWord (m : List Byte) (j : Nat) {k : Nat} (hk : k < 4) :
    laneByte (blockWord m j) k = m.getD (4 * j + k) 0 := by
  simp (disch := omega) only [blockWord, laneByte_or, laneByte_laneWord]
  match k, hk with
  | 0, _ => simp
  | 1, _ => simp
  | 2, _ => simp
  | 3, _ => simp

/-- The XOR half of a block absorb on the rate words. -/
theorem xorBlock_rate (S : SpongeState) (m : List Byte) {j : Nat} (hj : j < 4) :
    (xorBlock S m)[j] = S[j] ^^^ blockWord m j := by
  match j, hj with
  | 0, _ => rfl
  | 1, _ => rfl
  | 2, _ => rfl
  | 3, _ => rfl

/-- No capacity word is reached by the XOR half of a block absorb. -/
theorem xorBlock_capacity (S : SpongeState) (m : List Byte) (j : Nat) (hj : j < 12) (hc : 4 ≤ j) :
    (xorBlock S m)[j] = S[j] := xorRate_capacity _ _ _ _ _ j hj hc

/-- The XOR half of a block absorb in the byte view. -/
theorem stateByte_xorBlock (S : SpongeState) (m : List Byte) {k : Nat} (hk : k < 48) :
    stateByte (xorBlock S m) k = if k < 16 then stateByte S k ^^^ m.getD k 0 else stateByte S k := by
  rw [stateByte_eq _ hk, stateByte_eq _ hk]
  split
  next h =>
    rw [xorBlock_rate S m (by omega), laneByte_xor, laneByte_blockWord m _ (by omega), Nat.div_add_mod]
  next h => rw [xorBlock_capacity S m _ _ (by omega)]

/-- `xorBytes` in the byte view: byte o + i is XORed by byte i of the list and every other byte is kept. -/
theorem stateByte_xorBytes (S : SpongeState) {o : Nat} {m : List Byte} (hm : o + m.length ≤ 16) {k : Nat}
    (hk : k < 48) :
    stateByte (xorBytes S o m) k = if o ≤ k then stateByte S k ^^^ m.getD (k - o) 0 else stateByte S k := by
  induction m generalizing S o with
  | nil => simp
  | cons b m ih =>
    rw [List.length_cons] at hm
    rw [xorBytes_cons, ih _ (by omega), stateByte_xorByte S b (by omega) hk]
    obtain hlt | rfl | hgt := Nat.lt_trichotomy k o
    · simp [hlt.ne, show ¬ o + 1 ≤ k by omega, show ¬ o ≤ k by omega]
    · simp
    · have hsub : k - o = k - (o + 1) + 1 := by omega
      simp [hgt.ne', show o + 1 ≤ k by omega, hgt.le, hsub]

/-- The block XOR is the XOR of its sixteen bytes at the offsets 0..15. -/
theorem xorBlock_eq_xorBytes (S : SpongeState) {m : List Byte} (hm : m.length = 16) :
    xorBlock S m = xorBytes S 0 m := by
  refine eq_of_stateByte_eq fun k hk => ?_
  rw [stateByte_xorBlock S m hk, stateByte_xorBytes S (by omega) hk, Nat.sub_zero, if_pos (Nat.zero_le k)]
  split
  next => rfl
  next h => rw [List.getD_eq_default _ _ (by omega)]; simp

/-- Settles O16: the block XOR and the sixteen byte XORs have the same byte view, and the block XOR is word by word. -/
theorem blockAbsorbIsSixteenByteXors : Obligations.BlockAbsorbIsSixteenByteXors := by
  refine fun S m hm => ⟨congrArg perm (xorBlock_eq_xorBytes S hm), fun j hj => ?_, xorBlock_capacity S m, rfl⟩
  rw [xorBlock_rate S m hj]
  simp [blockWord, laneWord]

end Sys2Proof.Machine

namespace Sys2Proof.Machine

/-! ### The byte fold of WRITE (42_streaming_write.md R143, R145) -/

@[simp] theorem absorbFold_nil (A : SpongeState) (T : BitVec 64) : absorbFold A T [] = (A, T) := rfl

/-- The step of the fold on its first byte, with `T mod 16` written out. -/
theorem absorbFold_cons (A : SpongeState) (T : BitVec 64) (b : Byte) (m : List Byte) :
    absorbFold A T (b :: m) =
      absorbFold (if (T + 1).toNat % 16 = 0 then perm (xorByte A (T.toNat % 16) b) else xorByte A (T.toNat % 16) b)
        (T + 1) m := rfl

/-- Folding over a concatenation is folding over its parts one after the other. -/
theorem absorbFold_append (A : SpongeState) (T : BitVec 64) (m n : List Byte) :
    absorbFold A T (m ++ n) = absorbFold (absorbFold A T m).1 (absorbFold A T m).2 n :=
  List.foldl_append

/-- The fold counts its bytes into T, modulo 2^64. -/
theorem absorbFold_snd (A : SpongeState) (T : BitVec 64) (m : List Byte) :
    (absorbFold A T m).2 = T + BitVec.ofNat 64 m.length := by
  induction m generalizing A T with
  | nil => simp
  | cons b m ih => rw [absorbFold_cons, ih, List.length_cons, Nat.add_comm, BitVec.ofNat_add, ← BitVec.add_assoc]; rfl

/-- T wraps at a multiple of 16, so the offset `T mod 16` advances by the bytes absorbed. -/
theorem toNat_add_ofNat_mod_rate (T : BitVec 64) (n : Nat) :
    (T + BitVec.ofNat 64 n).toNat % 16 = (T.toNat % 16 + n) % 16 := by
  rw [BitVec.toNat_add, BitVec.toNat_ofNat]
  omega

/-- Up to the block boundary the fold XORs its bytes at consecutive offsets; P runs when the last byte reaches the
boundary. -/
theorem absorbFold_fst_of_le_rate (A : SpongeState) (T : BitVec 64) (m : List Byte)
    (hm : T.toNat % 16 + m.length ≤ 16) :
    (absorbFold A T m).1 =
      if T.toNat % 16 + m.length = 16 then perm (xorBytes A (T.toNat % 16) m) else xorBytes A (T.toNat % 16) m := by
  induction m generalizing A T with
  | nil => rw [if_neg (by simp only [List.length_nil]; omega)]; rfl
  | cons b m ih =>
    have hnext : (T + 1).toNat % 16 = (T.toNat % 16 + 1) % 16 := toNat_add_ofNat_mod_rate T 1
    rw [List.length_cons] at hm ⊢
    rw [absorbFold_cons, hnext]
    by_cases hlast : T.toNat % 16 = 15
    · obtain rfl : m = [] := List.eq_nil_of_length_eq_zero (by omega)
      simp [hlast]
    · have hoff : (T.toNat % 16 + 1) % 16 = T.toNat % 16 + 1 := Nat.mod_eq_of_lt (by omega)
      rw [hoff] at hnext ⊢
      rw [if_neg (Nat.succ_ne_zero _), ih _ _ (by omega), hnext, xorBytes_cons, Nat.add_right_comm, Nat.add_assoc]

/-- Bytes that end at the block boundary finish the block with P, and the fold goes on from there. -/
theorem absorbFold_append_of_rate (A : SpongeState) (T : BitVec 64) {m : List Byte} (n : List Byte)
    (hm : T.toNat % 16 + m.length = 16) :
    absorbFold A T (m ++ n) = absorbFold (perm (xorBytes A (T.toNat % 16) m)) (T + BitVec.ofNat 64 m.length) n := by
  rw [absorbFold_append, absorbFold_snd, absorbFold_fst_of_le_rate A T m hm.le, if_pos hm]

/-! ### WRITE's three steps, case by case (42_streaming_write.md R143) -/

/-- With no partial block pending, WRITE absorbs the complete blocks and XORs the remainder. -/
theorem absorbInto_zero (A : SpongeState) (m : List Byte) :
    absorbInto A 0 m = xorBytes (absorbBlocks (m.length / 16) A m) 0 (m.drop (16 * (m.length / 16))) := rfl

/-- Bytes that stay short of the block boundary are XORed after the bytes pending. -/
theorem absorbInto_of_lt_rate (A : SpongeState) {o : Nat} {m : List Byte} (hm : o + m.length < 16) :
    absorbInto A o m = xorBytes A o m := by
  by_cases ho : o = 0
  · have hblocks : m.length / 16 = 0 := Nat.div_eq_of_lt (by omega)
    rw [ho, absorbInto_zero, hblocks]
    rfl
  · have hcount : step1Count o m.length = m.length := by
      rw [step1Count, if_neg ho, Config.rate, Nat.min_eq_left (by omega)]
    have hboundary : ¬ (o ≠ 0 ∧ o + m.length = 16) := by omega
    simp [absorbInto, hcount, Config.rate, hboundary, absorbBlocks]

/-- Bytes that end at the block boundary finish the block with P, and the rest starts at offset 0. -/
theorem absorbInto_append_of_rate (A : SpongeState) {o : Nat} {m : List Byte} (n : List Byte) (ho : o < 16)
    (hm : o + m.length = 16) : absorbInto A o (m ++ n) = absorbInto (perm (xorBytes A o m)) 0 n := by
  rw [absorbInto_zero]
  by_cases hzero : o = 0
  · have hblock : m.length = 16 := by omega
    have hblocks : (m ++ n).length / 16 = n.length / 16 + 1 := by rw [List.length_append]; omega
    rw [hzero, absorbInto_zero, hblocks, absorbBlocks, absorbBlock, Config.rate, Nat.mul_succ, Nat.add_comm (16 * _),
      ← List.drop_drop, List.take_left' hblock, List.drop_left' hblock, xorBlock_eq_xorBytes A hblock]
  · have hcount : step1Count o (m ++ n).length = m.length := by
      rw [step1Count, if_neg hzero, Config.rate, List.length_append]; omega
    simp only [absorbInto, hcount, Config.rate, if_pos (And.intro hzero hm), List.take_left, List.drop_left]

/-- WRITE's three steps end with the State of the fold: bytes short of the boundary are XORed by both, and bytes that
reach it finish the block in both and leave fewer bytes. -/
theorem absorbFold_fst (A : SpongeState) (T : BitVec 64) (m : List Byte) :
    (absorbFold A T m).1 = absorbInto A (T.toNat % 16) m := by
  by_cases hm : T.toNat % 16 + m.length < 16
  · rw [absorbInto_of_lt_rate A hm, absorbFold_fst_of_le_rate A T m hm.le, if_neg hm.ne]
  · obtain ⟨p, q, hpq, hp⟩ : ∃ p q, m = p ++ q ∧ T.toNat % 16 + p.length = 16 :=
      ⟨m.take (16 - T.toNat % 16), m.drop _, (List.take_append_drop ..).symm, by rw [List.length_take]; omega⟩
    have hT : (T + BitVec.ofNat 64 p.length).toNat % 16 = 0 := by rw [toNat_add_ofNat_mod_rate, hp]
    have hlt : q.length < m.length := by rw [hpq, List.length_append]; omega
    rw [hpq, absorbFold_append_of_rate A T q hp, absorbFold_fst _ _ q, hT,
      absorbInto_append_of_rate A q (Nat.mod_lt _ (by decide)) hp]
termination_by m.length

/-- The bytes of DIN are as many as asked for. -/
@[simp] theorem length_dinBytes (D : Vector Word 4) (n : Nat) : (dinBytes D n).length = n := by simp [dinBytes]

/-- WRITE's effect is the fold over its bytes of DIN (R145). -/
theorem writeEffect_eq_absorbFold (n : BitVec 5) (s : State) :
    writeEffect n s = { s with
      a := (absorbFold s.a s.t (dinBytes s.din n.toNat)).1
      t := (absorbFold s.a s.t (dinBytes s.din n.toNat)).2 } := by
  rw [absorbFold_fst, absorbFold_snd, length_dinBytes, BitVec.ofNat_toNat]
  rfl

/-- Settles O25: the effect is the fold by `absorbFold_fst`, and the fold over one byte is its step. -/
theorem writeCompletesAsByteFold : Obligations.WriteCompletesAsByteFold := by
  intro n s hn hf
  refine ⟨?completes, fun A T b => absorbFold_cons A T b []⟩
  have hwf : (Instr.write n).wellFormed = true := wellFormed_write.mpr hn
  have hok : issueFault (.write n) s = none := by simp [issueFault, hwf]
  rw [exec_eq_runCommand, runCommand_ok hf hok, commandEffect, writeEffect_eq_absorbFold]
  rfl

end Sys2Proof.Machine

namespace Sys2Proof.Machine

/-! ### Padding (43_finalize_squeeze.md R160) -/

/-- `xor_byte` in the byte view as one XOR, by the zero byte wherever the offset is not hit. -/
theorem stateByte_xorByte_eq_xor (S : SpongeState) {o k : Nat} (v : Byte) (ho : o < 16) (hk : k < 48) :
    stateByte (xorByte S o v) k = stateByte S k ^^^ (if k = o then v else 0) := by
  rw [stateByte_xorByte S v ho hk]
  split
  next => rfl
  next => exact BitVec.xor_zero.symm

/-- Settles O17: `pad` is two `xor_byte`s, so the two XORs meet on the same byte when t = 15. -/
theorem padTouchesTwoBytes : Obligations.PadTouchesTwoBytes := by
  intro S t ht k hk
  rw [pad, stateByte_xorByte_eq_xor _ _ (by decide) hk, stateByte_xorByte_eq_xor _ _ (by omega) hk]

/-! ### The presented chunk and the DOUT registers (43_finalize_squeeze.md R162) -/

/-- No chunk byte lies at or beyond the rate. -/
theorem chunkByte_of_rate_le (s : State) {i : Nat} (hi : 16 ≤ i) : chunkByte s i = 0 :=
  if_neg (Nat.not_lt.mpr ((outBytes_le s).trans hi))

/-- A chunk byte is the byte of F under the mask of OUT_VALID and Q. -/
theorem chunkByte_eq (s : State) (i : Nat) :
    chunkByte s i = if s.outValid = true ∧ i < min 16 s.q.toNat then stateByte s.f i else 0 := by
  cases hv : s.outValid <;> simp [chunkByte, outBytes, hv, Config.rate]

/-- The 16 bytes the squeezer presents in DOUT, zeros where none is valid. -/
def chunkBytes (s : State) : List Byte := (List.range 16).map (chunkByte s)

/-- The chunk as a list has its bytes at their indices, and 0 past its end. -/
theorem getD_chunkBytes (s : State) (i : Nat) : (chunkBytes s).getD i 0 = chunkByte s i := by
  by_cases hi : i < 16
  · simp [chunkBytes, hi]
  · rw [chunkByte_of_rate_le s (by omega)]
    simp [chunkBytes, hi]

/-- DOUT j is the little-endian word j of the chunk. -/
theorem dout_eq_blockWord (s : State) (j : Nat) : dout s j = blockWord (chunkBytes s) j := by
  simp only [dout, blockWord, getD_chunkBytes]

/-- Lane k of DOUT j is byte 4j + k of the chunk. -/
theorem laneByte_dout (s : State) (j : Nat) {k : Nat} (hk : k < 4) :
    laneByte (dout s j) k = chunkByte s (4 * j + k) := by
  rw [dout_eq_blockWord, laneByte_blockWord _ j hk, getD_chunkBytes]

/-- No register shows the moves still to come. -/
theorem readReg_events (r : Reg) (s : State) (es : List Event) : readReg r { s with events := es } = readReg r s := rfl

/-- The step that reads an aligned offset of a ready block returns the register there and changes nothing else (R55, R59). -/
theorem step_hostRead_ready {s : State} {a : Offset} {es : List Event} (hready : Ready s) (hr : s.resetAsserted = false)
    (ha : a.toNat % 4 = 0) (h : s.events = .hostRead .w32 a :: es) :
    step s = .next { s with events := es, replies := readReg (regAt a) s :: s.replies } := by
  have hfree : readIsFree (regAt a) { s with events := es } = false := readIsFree_ready hready _
  rw [step_hostRead hr h, if_pos (accessOk_iff.mpr ⟨rfl, ha⟩), regRead_of_not_free hfree, readReg_events]

/-- The DOUT offsets are word-aligned. -/
theorem doutOffset_aligned (j : Nat) : (BitVec.ofNat 8 (0x30 + 4 * j)).toNat % 4 = 0 := by
  rw [BitVec.toNat_ofNat]
  omega

/-- Settles O41: a lane of DOUT is a chunk byte, which is masked as R162 says; the step is a read of a ready block. -/
theorem doutShowsTheChunk : Obligations.DoutShowsTheChunk := by
  refine fun s j k hj hk => ⟨?lane, fun hready hr es h => ?step⟩
  case lane => rw [laneByte_dout s j hk, chunkByte_eq]
  case step =>
    rw [step_hostRead_ready hready hr (doutOffset_aligned j) h, regAt_dout ⟨j, hj⟩]
    rfl

end Sys2Proof.Machine

namespace Sys2Proof

open Machine

/-! ### Why a word is illegal (60_exceptions.md R203) -/

/-- A word is its six fields put back in their places. -/
theorem word_eq_fields (v : Word) :
    v = (opField v).setWidth 32 ||| (offField v).setWidth 32 <<< 4 ||| (countField v).setWidth 32 <<< 8 |||
      (v.extractLsb' 13 3).setWidth 32 <<< 13 ||| (byteField v).setWidth 32 <<< 16 |||
      (v.extractLsb' 24 8).setWidth 32 <<< 24 := by
  have hop : (opField v).setWidth 32 = v &&& fieldMask 0 4 := by
    rw [← extractLsb'_shiftLeft_eq_and_fieldMask, BitVec.shiftLeft_zero, opField]
  have hmasks : fieldMask 0 4 ||| fieldMask 4 4 ||| fieldMask 8 5 ||| fieldMask 13 3 ||| fieldMask 16 8 |||
      fieldMask 24 8 = BitVec.allOnes 32 := by decide
  simp only [hop, offField, countField, byteField, extractLsb'_shiftLeft_eq_and_fieldMask, ← BitVec.and_or_distrib_left,
    hmasks, BitVec.and_allOnes]

/-- A field put into a word is not seen in a field below or above it. -/
theorem extractLsb'_or_shiftLeft_disjoint {w : Nat} (y : Word) (x : BitVec w) {start start' len' : Nat}
    (h : start' + len' ≤ start ∨ start + w ≤ start') :
    (y ||| x.setWidth 32 <<< start).extractLsb' start' len' = y.extractLsb' start' len' := by
  rw [BitVec.extractLsb'_or, extractLsb'_setWidth_shiftLeft_disjoint x h]
  exact BitVec.or_zero

/-- A command's word is zero in every field its opcode does not use (30_encoding.md R79). -/
theorem unusedFieldsZero_encode (i : Instr) : UnusedFieldsZero (encode i) := by
  rw [UnusedFieldsZero, opField_encode]
  cases i with
  | new | reset | sum | squeeze | wclear | permute | absorbBlock => decide
  | write n =>
    obtain ⟨-, hlow, hhigh⟩ := Laws.EncodedOpcode.write n
    exact ⟨hlow, hhigh, fun _ _ => extractLsb'_or_shiftLeft_disjoint 0x3 n (.inl (by decide)), fun h => absurd rfl h,
      fun _ => extractLsb'_or_shiftLeft_disjoint 0x3 n (.inr (by decide))⟩
  | absorbByte off byte =>
    obtain ⟨-, hlow, hhigh⟩ := Laws.EncodedOpcode.absorbByte off byte
    have hcount : countField (encode (.absorbByte off byte)) = 0 :=
      (extractLsb'_or_shiftLeft_disjoint _ byte (.inl (by decide))).trans
        (extractLsb'_or_shiftLeft_disjoint 0x9 off (.inr (by decide)))
    exact ⟨hlow, hhigh, fun h => absurd rfl h, fun _ => hcount, fun h => absurd rfl h⟩
  | osFinish off =>
    obtain ⟨-, hlow, hhigh⟩ := Laws.EncodedOpcode.osFinish off
    exact ⟨hlow, hhigh, fun _ h => absurd rfl h, fun _ => extractLsb'_or_shiftLeft_disjoint 0xA off (.inr (by decide)),
      fun _ => extractLsb'_or_shiftLeft_disjoint 0xA off (.inr (by decide))⟩

/-- A word with a command's opcode and zeros in the fields that opcode does not use is a command's word. -/
theorem exists_encode_of_unusedFieldsZero {v : Word} (hop : reservedOpcode (opField v) = false)
    (hunused : UnusedFieldsZero v) : ∃ i, encode i = v := by
  obtain ⟨hlow, hhigh, hoff, hcount, hbyte⟩ := hunused
  have hv := (word_eq_fields v).symm
  obtain h | h | h | h | h := opcode_cases (opField v)
  · simp [hop] at h
  · have hfieldless : ∀ op ∈ fieldlessOpcodes,
        (op ≠ 0x3 ∧ op ≠ 0x9 ∧ op ≠ 0xA) ∧ ∃ i ∈ fieldlessCommands, encode i = op.setWidth 32 := by decide
    obtain ⟨⟨h3, h9, hA⟩, i, -, hi⟩ := hfieldless _ h
    exact ⟨i, by simpa [hi, hlow, hhigh, hoff h9 hA, hcount h3, hbyte h9] using hv⟩
  · exact ⟨.write (countField v), by simpa [encode, h, hlow, hhigh, hoff, hbyte] using hv⟩
  · exact ⟨.absorbByte (offField v) (byteField v), by simpa [encode, h, hlow, hhigh, hcount] using hv⟩
  · exact ⟨.osFinish (offField v), by simpa [encode, h, hlow, hhigh, hcount, hbyte] using hv⟩

/-- The words of commands by their fields. -/
theorem exists_encode_iff {v : Word} :
    (∃ i, encode i = v) ↔ reservedOpcode (opField v) = false ∧ UnusedFieldsZero v := by
  constructor
  · rintro ⟨i, rfl⟩
    exact ⟨opField_encode i ▸ reservedOpcode_opcode i, unusedFieldsZero_encode i⟩
  · rintro ⟨hop, hunused⟩
    exact exists_encode_of_unusedFieldsZero hop hunused

/-- The three reasons of R203. -/
theorem legalWord_eq_false_iff {v : Word} :
    legalWord v = false ↔
      (opField v = 0 ∨ 0xB ≤ opField v) ∨ ¬ UnusedFieldsZero v ∨ (opField v = 0x3 ∧ 16 < countField v) := by
  have hrows : (opcodeRows.any fun r => r.matches v) = true ↔ reservedOpcode (opField v) = false ∧ UnusedFieldsZero v := by
    rw [List.any_eq_true, exists_row_matches_iff, exists_encode_iff]
  have hreserved : reservedOpcode (opField v) = false ↔ ¬ (opField v = 0 ∨ 0xB ≤ opField v) := by simp [reservedOpcode]
  have hcount : (opField v != 0x3 || decide (countField v ≤ 16)) = true ↔ ¬ (opField v = 0x3 ∧ 16 < countField v) := by
    simp [imp_iff_not_or]
  rw [← Bool.not_eq_true, legalWord, Bool.and_eq_true, hrows, hreserved, hcount, not_and_or,
    not_and_or, not_not, not_not, or_assoc]

end Sys2Proof

namespace Sys2Proof.Machine

/-! ### The fault entry of an illegal word (60_exceptions.md R203, R208) -/

/-- STATUS right after a fault entry shows FAULT and the cause's code, and nothing else (10_state.md R33). -/
theorem status_raiseFault (c : FaultCause) (s : State) :
    status (raiseFault c s) = (causeCode c).setWidth 32 <<< 16 ||| 0x00000002 :=
  status_faulted rfl

/-- Settles O3: the reasons from the word's fields; the decoder refuses an illegal word, so the CMD write faults. -/
theorem illegalWordsRaiseIllegalCmd : Obligations.IllegalWordsRaiseIllegalCmd := by
  refine fun v => ⟨legalWord_eq_false_iff, fun hv s hs => ?_⟩
  obtain ⟨e, he⟩ := decode_error_of_not_legalWord hv
  have hfault := regWrite_cmd_of_decode_error hs he
  exact ⟨hfault, hfault, hfault ▸ status_raiseFault .illegalCmd s⟩

/-! ### The checks of a register write, in order (60_exceptions.md R207) -/

/-- A legal word decodes. -/
theorem exists_decode_ok_of_legalWord {v : Word} (h : legalWord v = true) : ∃ i, decode v = .ok i := by
  rw [legalWord, Bool.and_eq_true, List.any_eq_true, ← List.find?_isSome, Option.isSome_iff_exists] at h
  obtain ⟨⟨r, hfind⟩, hcount⟩ := h
  have hmatch := List.find?_some hfind
  have hencode := encode_build_of_matches (List.mem_of_find?_eq_some hfind) hmatch
  have hwf : (r.build v).WellFormed := wellFormed_iff_count.mpr (hencode.symm ▸ hcount)
  exact ⟨r.build v, by simp only [decode, hfind, if_pos hwf]⟩

/-- The checks of a legal command at issue, by its opcode. -/
theorem issueFault_of_wellFormed {i : Instr} (hi : i.WellFormed) (s : State) :
    issueFault i s =
      if i.opcode = 0x1 ∧ s.arg = 0 then some .outlenZero
      else if i.opcode = 0x5 ∧ s.outValid = false then some .squeezeEmpty else none := by
  have hnew : i = .new ↔ i.opcode = 0x1 := by cases i <;> simp [Instr.opcode]
  have hsqueeze : i = .squeeze ↔ i.opcode = 0x5 := by cases i <;> simp [Instr.opcode]
  simp [issueFault, hi, hnew, hsqueeze]

/-- The offset 0x00 is CMD's alone (20_memory.md R51). -/
theorem regAt_ne_cmd {a : Offset} (h : a ≠ 0x00) : regAt a ≠ .cmd := by
  have ha : a.toNat ≠ 0x00 := fun h' => h (BitVec.eq_of_toNat_eq h')
  simp only [regAt, ha, if_false]
  split_ifs <;> exact nofun

/-- Only a write to CMD reaches the fault registers, PENDING or BUSY. -/
theorem writeReg_frame {r : Reg} (hr : r ≠ .cmd) (v : Word) (s : State) :
    (writeReg r v s).fault = s.fault ∧ (writeReg r v s).faultCode = s.faultCode ∧
    (writeReg r v s).pending = s.pending ∧ (writeReg r v s).busy = s.busy := by
  cases r with
  | cmd => exact absurd rfl hr
  | status | arg | outlen | blocksize | outrem | din | dout | w | reserved => exact ⟨rfl, rfl, rfl, rfl⟩

/-- A CMD write of a legal word: NEW's check, then SQUEEZE's, and else the word's command becomes pending. -/
theorem regWrite_cmd_of_legalWord {v : Word} {s : State} (h : Ready s) (hv : legalWord v = true) :
    ∃ i, encode i = v ∧ regWrite 0x00 v s =
      if opField v = 0x1 ∧ s.arg = 0 then raiseFault .outlenZero s
      else if opField v = 0x5 ∧ s.outValid = false then raiseFault .squeezeEmpty s
      else { s with pending := some i, busy := true } := by
  obtain ⟨i, hd⟩ := exists_decode_ok_of_legalWord hv
  obtain ⟨hwf, rfl⟩ := wellFormed_and_encode_of_decode_ok hd
  refine ⟨i, rfl, ?_⟩
  simp only [regWrite_cmd h, issue, hd, issueFault_of_wellFormed hwf, opField_encode]
  split_ifs <;> rfl

/-- Settles O23: NEW's check fails, and the fault state ignores writes. -/
theorem newWithArgZeroFaults : Obligations.NewWithArgZeroFaults := by
  intro s hs harg
  obtain ⟨i, -, hwrite⟩ := regWrite_cmd_of_legalWord (v := 0x00000001) hs (by decide)
  have hfault : regWrite 0x00 0x00000001 s = raiseFault .outlenZero s := hwrite.trans (if_pos ⟨by decide, harg⟩)
  exact ⟨hfault, hfault ▸ status_raiseFault .outlenZero s, fun a v => hfault ▸ regWrite_faulted rfl⟩

/-- Settles O31: the word is not NEW's, and SQUEEZE's check fails. -/
theorem squeezeEmptyFaults : Obligations.SqueezeEmptyFaults := by
  intro s hs hvalid
  obtain ⟨i, -, hwrite⟩ := regWrite_cmd_of_legalWord (v := 0x00000005) hs (by decide)
  have hopcode : opField 0x00000005 ≠ 0x1 := by decide
  have hfault : regWrite 0x00 0x00000005 s = raiseFault .squeezeEmpty s :=
    (hwrite.trans (if_neg fun h => hopcode h.1)).trans (if_pos ⟨by decide, hvalid⟩)
  exact ⟨hfault, hfault ▸ status_raiseFault .squeezeEmpty s⟩

/-- The command of a word has the word's fields. -/
theorem fields_of_encode {i : Instr} {v : Word} (h : encode i = v) :
    i.opcode = opField v ∧ (∀ n, i = .write n → n = countField v) ∧
    (∀ o b, i = .absorbByte o b → o = offField v ∧ b = byteField v) ∧ (∀ o, i = .osFinish o → o = offField v) := by
  subst h
  refine ⟨(opField_encode i).symm, ?_, ?_, ?_⟩
  · rintro n rfl; simp
  · rintro o b rfl; simp
  · rintro o rfl; simp

/-- Settles O43: the branches of RegWrite, then of `issue` for a CMD write, where the opcode decides the last two checks. -/
theorem regWriteChecksInOrder : Obligations.RegWriteChecksInOrder := by
  intro s a v es hr halign h
  have hstep := step_hostWrite hr h
  rw [if_pos (accessOk_iff.mpr ⟨rfl, halign⟩)] at hstep
  refine ⟨_, hstep, ?_⟩
  by_cases hf : s.fault = true
  · rw [if_pos hf]
    exact regWrite_faulted hf
  rw [if_neg hf]
  replace hf : s.fault = false := by simpa using hf
  by_cases hb : s.busy = true
  · rw [if_pos hb, regWrite_busy (s := { s with events := es }) hf hb]
    obtain ⟨hfault, hcode, hpending, hbusy, -⟩ := violateBusy_frame { s with events := es }
    exact ⟨hfault, hcode, hpending, hbusy⟩
  rw [if_neg hb]
  have hready : Ready { s with events := es } := ⟨hf, by simpa using hb⟩
  split_ifs with ha hillegal hnew hsqueeze
  · rw [regWrite_ready hready.1 hready.2]
    obtain ⟨hfault, hcode, hpending, hbusy⟩ := writeReg_frame (regAt_ne_cmd ha) v { s with events := es }
    exact ⟨hfault.trans hready.1, hcode, hpending, hbusy.trans hready.2⟩
  all_goals obtain rfl := not_not.mp ha
  · obtain ⟨e, he⟩ := decode_error_of_not_legalWord hillegal
    exact regWrite_cmd_of_decode_error hready he
  all_goals
    obtain ⟨i, hencode, hwrite⟩ := regWrite_cmd_of_legalWord hready (by simpa using hillegal)
    rw [hwrite]
  · exact if_pos hnew
  · exact (if_neg hnew).trans (if_pos hsqueeze)
  · exact ⟨i, (if_neg hnew).trans (if_neg hsqueeze), hencode, fields_of_encode hencode⟩

/-! ### Where a fault comes from (60_exceptions.md R206) -/

/-- A pending command that passed its checks completes without a fault. -/
theorem exec_of_passed {i : Instr} {s : State} (hf : s.fault = false) (hi : issueFault i s = none) :
    exec i s = .next (retire (commandEffect i s)) := by
  rw [exec_eq_runCommand, runCommand_ok hf hi]

/-- The engine's complete step raises no fault where the pending command passed its checks. -/
theorem engineComplete_fault {s t : State} (hf : s.fault = false)
    (hpassed : ∀ i, s.pending = some i → issueFault i s = none) (h : engineComplete s = .next t) : t.fault = false := by
  obtain rfl | ⟨-, -, i, hp, hexec⟩ := engineComplete_cases h
  · exact hf
  · obtain rfl := exec_eq_retire_of_passed hf (hpassed i hp) hexec
    obtain ⟨-, -, hfault, -⟩ := commandEffect_frame i s
    exact hfault.trans hf

/-- RegWrite raises a fault as a violation on a busy block, and else as a bare fault entry. -/
theorem regWrite_fault_cases {a : Offset} {v : Word} {s : State} (hf : s.fault = false)
    (h : (regWrite a v s).fault = true) :
    (s.busy = true ∧ regWrite a v s = violateBusy s) ∨ ∃ c, regWrite a v s = raiseFault c s := by
  cases hb : s.busy with
  | true => exact .inl ⟨rfl, regWrite_busy hf hb⟩
  | false =>
    right
    by_cases ha : a = 0x00
    · subst ha
      rw [regWrite_cmd ⟨hf, hb⟩] at h ⊢
      obtain ⟨-, hraise⟩ | ⟨i, c, -, -, hraise⟩ | ⟨i, -, -, haccept⟩ := issue_cases v s
      · exact ⟨_, hraise⟩
      · exact ⟨c, hraise⟩
      · simp [haccept, hf] at h
    · rw [regWrite_ready hf hb, (writeReg_frame (regAt_ne_cmd ha) v s).1, hf] at h
      cases h

/-- A host write that goes on is an accepted access, and RegWrite. -/
theorem hostWrite_eq_next {width : AccessWidth} {a : Offset} {v : Word} {s t : State}
    (h : hostWrite width a v s = .next t) : width = .w32 ∧ a.toNat % 4 = 0 ∧ t = regWrite a v s := by
  unfold hostWrite at h
  split_ifs at h with _ hok
  obtain ⟨hwidth, halign⟩ := accessOk_iff.mp hok
  injection h with h
  exact ⟨hwidth, halign, h.symm⟩

/-- A host read that goes on raises no fault. -/
theorem hostRead_fault {width : AccessWidth} {a : Offset} {s t : State} (h : hostRead width a s = .next t) :
    t.fault = s.fault := by
  unfold hostRead at h
  split_ifs at h
  injection h with h
  obtain ⟨v, k, hread⟩ := regRead_eq a s
  rw [← h, hread]

/-- Of the moves, only an accepted host write raises a fault. -/
theorem takeEvent_fault {e : Event} {s t : State} (hf : s.fault = false)
    (hpassed : ∀ i, s.pending = some i → issueFault i s = none) (h : takeEvent e s = .next t) (ht : t.fault = true) :
    ∃ a v, e = .hostWrite .w32 a v ∧ a.toNat % 4 = 0 ∧ t = regWrite a v s := by
  cases e with
  | hostWrite width a v =>
    obtain ⟨rfl, halign, ht'⟩ := hostWrite_eq_next h
    exact ⟨a, v, rfl, halign, ht'⟩
  | hostRead width a => simp [hostRead_fault h, hf] at ht
  | engineComplete => simp [engineComplete_fault hf hpassed h] at ht
  | engineRound =>
    obtain ⟨u, hround⟩ := engineRound_eq s
    obtain rfl : engineRound s = t := by injection h
    simp [hround, hf] at ht
  | resetAssert => cases h; simp at ht
  | resetRelease => cases h; simp [hf] at ht

/-- With no move left no fault is raised: the engine completes a command that passed its checks, or the block waits. -/
theorem runQuiet_fault {s t : State} (hf : s.fault = false)
    (hpassed : ∀ i, s.pending = some i → issueFault i s = none) (h : runQuiet s = .next t) : t.fault = false := by
  unfold runQuiet at h
  split_ifs at h
  · injection h with h
    exact h ▸ hf
  · exact engineComplete_fault hf hpassed h

/-- Settles O34: only an accepted host write enters the fault state, as `regWrite_fault_cases` says; a pending command has
passed its checks, so its completion raises no fault. -/
theorem everyFaultIsAtItsWrite : Obligations.EveryFaultIsAtItsWrite := by
  refine ⟨fun s t hinv hf h ht => ?atWrite, fun s i hinv hp => ?complete⟩
  case atWrite =>
    have hpassed := hinv.pending_passed_issue
    cases he : s.events with
    | nil =>
      rw [step_nil he] at h
      simp [runQuiet_fault hf hpassed h] at ht
    | cons e es =>
      rw [step_cons he] at h
      obtain ⟨a, v, rfl, halign, rfl⟩ := takeEvent_fault (s := { s with events := es }) hf hpassed h ht
      refine ⟨a, v, es, rfl, halign, ?_⟩
      obtain ⟨hb, hwrite⟩ | ⟨c, hwrite⟩ := regWrite_fault_cases (s := { s with events := es }) hf ht
      · obtain ⟨-, -, hpending, -, -, hdin, harg, -⟩ := violateBusy_frame { s with events := es }
        rw [hwrite]
        exact ⟨hdin, harg, hpending, fun hready => by simp [hready] at hb⟩
      · rw [hwrite]
        exact ⟨rfl, rfl, rfl, fun _ => ⟨c, rfl⟩⟩
  case complete =>
    have hf : s.fault = false := by
      by_contra hfault
      simp [(hinv.fault_code (by simpa using hfault)).2] at hp
    obtain ⟨-, -, hfault, hcode, -⟩ := commandEffect_frame i s
    exact ⟨_, exec_of_passed hf (hinv.pending_passed_issue i hp), hfault.trans hf, hcode.trans (hinv.no_fault_code hf),
      rfl, rfl⟩

end Sys2Proof.Machine

namespace Sys2Proof

/-! ### The decoder and the encoder are inverse (30_encoding.md R76, R79) -/

/-- Two rows that match the same word clash on it. -/
theorem rowsClash_of_matches {r r' : OpcodeRow} {v : Word} (h : r.matches v = true) (h' : r'.matches v = true) :
    rowsClash r r' = true := by
  have hr : v &&& r.mask = r.pattern := by simpa [OpcodeRow.matches] using h
  have hr' : v &&& r'.mask = r'.pattern := by simpa [OpcodeRow.matches] using h'
  have hbit : ∀ a m m' : Bool, (((a && m) ^^ (a && m')) && m && m') = false := by decide
  simp only [rowsClash, ← hr, ← hr', beq_iff_eq]
  ext i hi
  simp [hbit]

/-- The row that matches a word is the one the decoder finds: the opcode map is unambiguous. -/
theorem find?_opcodeRows_of_matches {r : OpcodeRow} (hr : r ∈ opcodeRows) {v : Word} (h : r.matches v = true) :
    opcodeRows.find? (fun r => r.matches v) = some r := by
  obtain ⟨r', hfind⟩ : ∃ r', opcodeRows.find? (fun r => r.matches v) = some r' :=
    Option.isSome_iff_exists.mp (List.find?_isSome.mpr ⟨r, hr, h⟩)
  have hunique : opcodeRows.Pairwise fun r r' => r.matches v = true → r'.matches v = true → r = r' :=
    opcodeRows_disjoint.imp fun hclash hm hm' => by simp [rowsClash_of_matches hm hm'] at hclash
  have hmatch := List.find?_some hfind
  have heq : r = r' := hunique.forall_of_forall_of_flip (fun _ _ _ _ => rfl)
    (hunique.imp fun hrr' hm hm' => (hrr' hm' hm).symm) hr (List.mem_of_find?_eq_some hfind) h hmatch
  rw [heq, hfind]

/-- The decoder reads the well-formed command back from its word: the row of its opcode is the one found. -/
theorem decode_encode {i : Instr} (hi : i.WellFormed) : decode (encode i) = .ok i := by
  obtain ⟨r, hr, hbuild⟩ := exists_row_build_encode i
  have hmatch := matches_encode_build hr (encode i)
  rw [hbuild] at hmatch
  simp only [decode, find?_opcodeRows_of_matches hr hmatch, hbuild, if_pos hi]

/-- Settles O1: the row of the command's opcode builds it back, and no other row matches its word. -/
theorem decodeOfEncodeIsIdentity : Obligations.DecodeOfEncodeIsIdentity := fun _ => decode_encode

/-- Settles O2: the row the decoder found drops no bit of the word. -/
theorem encodeOfDecodeIsIdentity : Obligations.EncodeOfDecodeIsIdentity := fun _ _ h =>
  (wellFormed_and_encode_of_decode_ok h).symm

/-- Settles O6: the decoder run on each word of the table. -/
theorem specWordsDecode : Obligations.SpecWordsDecode := by
  unfold Obligations.SpecWordsDecode
  decide

end Sys2Proof

namespace Sys2Proof.Machine

/-! ### Commands complete with their effect (10_state.md R31) -/

/-- The issue checks a command passes (30_encoding.md R77). -/
theorem issueFault_eq_none_iff {i : Instr} {s : State} :
    issueFault i s = none ↔ i.WellFormed ∧ (i = .new → s.arg ≠ 0) ∧ (i = .squeeze → s.outValid = true) := by
  unfold issueFault
  split_ifs with hwf hnew hsqueeze
  · simp [hwf]
  · simp [hnew]
  · simp [hsqueeze]
  · simp only [not_and] at hnew hsqueeze
    simpa using ⟨by simpa using hwf, hnew, by simpa using hsqueeze⟩

/-- A well-formed command that reads neither ARG nor OUT_VALID passes its issue checks in every state. -/
theorem issueFault_of_unchecked {i : Instr} (hi : i.WellFormed) (hnew : i ≠ .new) (hsqueeze : i ≠ .squeeze) (s : State) :
    issueFault i s = none :=
  issueFault_eq_none_iff.mpr ⟨hi, fun h => absurd h hnew, fun h => absurd h hsqueeze⟩

/-- Such a command completes with its effect, whatever the state. -/
theorem exec_of_unchecked (i : Instr) (hi : i.WellFormed) (hnew : i ≠ .new) (hsqueeze : i ≠ .squeeze) {s : State}
    (hf : s.fault = false) : exec i s = .next (retire (commandEffect i s)) :=
  exec_of_passed hf (issueFault_of_unchecked hi hnew hsqueeze s)

/-- Settles O18: PERMUTE has no check, and its effect is P of W. -/
theorem permuteCompletes : Obligations.PermuteCompletes := fun _ hf => exec_of_unchecked .permute rfl nofun nofun hf

/-- Settles O19: WCLEAR has no check, and its effect is the zero State in W. -/
theorem wclearCompletes : Obligations.WclearCompletes := fun _ hf => exec_of_unchecked .wclear rfl nofun nofun hf

/-- Settles O24: RESET has no check, and its effect is the zero State and count. -/
theorem resetCompletes : Obligations.ResetCompletes := fun _ hf => exec_of_unchecked .reset rfl nofun nofun hf

/-- Settles O29: SUM has no check, and its effect pads and permutes a copy of A. -/
theorem sumCompletes : Obligations.SumCompletes := fun _ hf => exec_of_unchecked .sum rfl nofun nofun hf

/-- Settles O32: OS_FINISH has no check, and its effect pads and permutes W. -/
theorem osFinishCompletes : Obligations.OsFinishCompletes := fun off _ hf =>
  exec_of_unchecked (.osFinish off) rfl nofun nofun hf

/-- Settles O22: NEW's one check is ARG <> 0. -/
theorem newCompletes : Obligations.NewCompletes := fun _ hf harg =>
  exec_of_passed hf (issueFault_eq_none_iff.mpr ⟨rfl, fun _ => harg, nofun⟩)

/-- Settles O30: SQUEEZE's one check is OUT_VALID, and its effect splits at Q = 16. -/
theorem squeezeCompletes : Obligations.SqueezeCompletes := by
  intro s hf hvalid
  rw [exec_of_passed (i := .squeeze) hf (issueFault_eq_none_iff.mpr ⟨rfl, nofun, fun _ => hvalid⟩),
    commandEffect, squeezeEffect]
  have hq : 16 < s.q ↔ 16 < s.q.toNat := BitVec.lt_def
  simp only [hq]
  split_ifs <;> rfl

/-- Settles O21: ABSORB_BYTE has no check, and its effect is `xor_byte` at OFF, seen byte by byte. -/
theorem absorbByteCompletes : Obligations.AbsorbByteCompletes := fun off byte s hf =>
  ⟨_, exec_of_unchecked (.absorbByte off byte) rfl nofun nofun hf,
    fun _ hk => stateByte_xorByte s.w byte off.isLt hk⟩

/-- Byte k of the list DIN gives is its input byte k. -/
theorem getD_dinBytes (D : Vector Word 4) {n k : Nat} (hk : k < n) : (dinBytes D n).getD k 0 = dinByte D k := by
  simp [dinBytes, hk]

/-- The little-endian words of DIN's sixteen bytes are the DIN registers. -/
theorem blockWord_dinBytes (D : Vector Word 4) {j : Nat} (hj : j < 4) : blockWord (dinBytes D 16) j = D[j] := by
  refine eq_of_extract_byte_eq (n := 4) (by decide) fun k hk => ?_
  have hlt : 4 * j + k < 16 := by omega
  have hword : (4 * j + k) / 4 = j := by omega
  have hlane : (4 * j + k) % 4 = k := by omega
  rw [← laneByte_eq_extractLsb', ← laneByte_eq_extractLsb', laneByte_blockWord _ j hk, getD_dinBytes D hlt]
  simp [dinByte, hlt, hword, hlane]

/-- ABSORB_BLOCK's effect is `absorb_block` of DIN's sixteen bytes (41_absorbers.md R126). -/
theorem absorbBlockEffect_eq (s : State) :
    absorbBlockEffect s = { s with w := absorbBlock s.w (dinBytes s.din 16) } := by
  simp (disch := decide) only [absorbBlock, xorBlock, blockWord_dinBytes]
  rfl

/-- Settles O20: ABSORB_BLOCK has no check, and DIN's words are those of its bytes. -/
theorem absorbBlockCompletes : Obligations.AbsorbBlockCompletes := by
  intro s hf
  rw [exec_of_unchecked .absorbBlock rfl nofun nofun hf, commandEffect, absorbBlockEffect_eq]
  rfl

/-- Settles O35: each failing check is the one `issueFault` answers, and `exec` raises it. -/
theorem failedChecksGuardEveryCommand : Obligations.FailedChecksGuardEveryCommand := by
  intro i s
  simp only [exec_eq_runCommand]
  refine ⟨runCommand_faulted, fun hf hwf => runCommand_fault hf ?_, fun hf hi harg => runCommand_fault hf ?_,
    fun hf hi hvalid => runCommand_fault hf ?_⟩
  · simp [issueFault, hwf]
  · simp [issueFault, hi, harg, Instr.wellFormed]
  · simp [issueFault, hi, hvalid, Instr.wellFormed]

end Sys2Proof.Machine

namespace Sys2Proof.Machine

/-! ### Stepping the pending command (10_state.md R20, R31) -/

/-- With no move left the step runs the pending command. -/
theorem step_nil_of_pending {s : State} {i : Instr} (h : s.events = []) (hf : s.fault = false)
    (hr : s.resetAsserted = false) (hp : s.pending = some i) : step s = exec i s := by
  simp [step_nil h, runQuiet, hf, hr, engineComplete_pending hf hr hp]

/-- The engine's move runs the pending command. -/
theorem step_engineComplete_of_pending {s : State} {i : Instr} {es : List Event} (h : s.events = .engineComplete :: es)
    (hf : s.fault = false) (hr : s.resetAsserted = false) (hp : s.pending = some i) :
    step s = exec i { s with events := es } := by
  rw [step_cons h]
  exact engineComplete_pending (s := { s with events := es }) hf hr hp

/-- Settles O47: both moves are the complete step, which is `exec` of the pending command. -/
theorem stepRunsThePendingCommand : Obligations.StepRunsThePendingCommand := fun _ _ hf hr hp =>
  ⟨fun h => step_nil_of_pending h hf hr hp, fun _ h => step_engineComplete_of_pending h hf hr hp⟩

/-- A word the decoder accepts is placed as the pending command, with the engine's move next. -/
theorem placeWord_of_decode_ok {v : Word} {i : Instr} (hd : decode v = .ok i) (s : State) :
    placeWord v s = { s with
      pending := some i, busy := true, round := none, fault := false, faultCode := 0, resetAsserted := false
      events := .engineComplete :: s.events } := by
  rw [placeWord, hd]

/-- A table row's command is the one the decoder answers for its word. -/
theorem decode_of_decodeTableWord {nbits w : Nat} {i : Instr} (h : decodeTableWord nbits w = some i) :
    decode (tableWord nbits w) = .ok i := by
  unfold decodeTableWord at h
  cases hd : decode (tableWord nbits w) with
  | error e => rw [hd] at h; cases h
  | ok j => rw [hd] at h; cases h; rfl

/-- Settles O48: the placed command is pending and the complete step is the next move. -/
theorem placedWordRunsNext : Obligations.PlacedWordRunsNext := by
  intro s nbits w i h
  rw [State.withFetchWord, placeWord_of_decode_ok (decode_of_decodeTableWord h)]
  exact step_engineComplete_of_pending rfl rfl rfl rfl

/-- A CMD write of a well-formed command that passes its issue checks leaves it pending (30_encoding.md R77). -/
theorem regWrite_cmd_encode {i : Instr} {s : State} (h : Ready s) (hi : issueFault i s = none) :
    regWrite 0x00 (encode i) s = { s with pending := some i, busy := true } := by
  obtain ⟨hwf, -⟩ := issueFault_eq_none_iff.mp hi
  rw [regWrite_cmd h, issue, decode_encode hwf]
  simp only [hi]

/-- Settles O49: the write makes the command pending, and the complete step runs it. -/
theorem issueThenComplete : Obligations.IssueThenComplete := by
  intro s i es hs hr _ hi h
  refine ⟨_, ?_, rfl, ?_⟩
  · rw [step_hostWrite hr h, if_pos (by decide)]
    exact congrArg _ (regWrite_cmd_encode (s := { s with events := .engineComplete :: es }) hs hi)
  · exact step_engineComplete_of_pending rfl hs.1 hr rfl

/-! ### The fault state (60_exceptions.md R209, R210) -/

/-- In the fault state the engine has no step. -/
theorem engineComplete_faulted {s : State} (hf : s.fault = true) : engineComplete s = .next s := by
  simp [engineComplete, hf]

/-- In the fault state the round unit does not move. -/
theorem engineRound_faulted {s : State} (hf : s.fault = true) : engineRound s = s := by
  simp [engineRound, hf]

/-- A host read that goes on is RegRead. -/
theorem hostRead_eq_next {width : AccessWidth} {a : Offset} {s t : State} (h : hostRead width a s = .next t) :
    s.resetAsserted = false ∧ t = regRead a s := by
  unfold hostRead at h
  split_ifs at h with hr
  injection h with h
  exact ⟨by simpa using hr, h.symm⟩

/-- In the fault state every move but the assertion of reset leaves the block alone. -/
theorem takeEvent_faulted {e : Event} {s t : State} (hf : s.fault = true) (hr : s.resetAsserted = false)
    (he : e ≠ .resetAssert) (h : takeEvent e s = .next t) : ∃ r k, t = { s with replies := r, freeIx := k } := by
  cases e with
  | hostWrite width a v =>
    obtain ⟨-, -, rfl⟩ := hostWrite_eq_next h
    exact ⟨_, _, regWrite_faulted hf⟩
  | hostRead width a =>
    obtain ⟨-, rfl⟩ := hostRead_eq_next h
    obtain ⟨v, k, hread⟩ := regRead_eq a s
    exact ⟨_, k, hread⟩
  | engineComplete =>
    obtain rfl : s = t := by injection (engineComplete_faulted hf).symm.trans h
    exact ⟨_, _, rfl⟩
  | engineRound =>
    obtain rfl : engineRound s = t := by injection h
    exact ⟨_, _, engineRound_faulted hf⟩
  | resetAssert => exact absurd rfl he
  | resetRelease =>
    obtain rfl : { s with resetAsserted := false } = t := by injection h
    exact ⟨s.replies, s.freeIx, by rw [← hr]⟩

/-- Settles O44: each move is ignored in the fault state but for what a read answers, and the assertion of reset leaves
it. -/
theorem faultStateIsSticky : Obligations.FaultStateIsSticky := by
  intro s hf hr
  refine ⟨fun h => ?ended, fun e es t h ht => ⟨fun he => ?ignored, ?reset, ?status⟩⟩
  case ended => simp [step_nil h, runQuiet, hf, hr]
  case ignored =>
    rw [step_cons h] at ht
    exact takeEvent_faulted (s := { s with events := es }) hf hr he ht
  case reset =>
    rintro rfl
    cases (step_resetAssert h).symm.trans ht
    exact ⟨rfl, rfl⟩
  case status =>
    rintro rfl
    cases (step_readStatus hr h).symm.trans ht
    exact congrArg (· :: s.replies) (status_faulted hf)

/-! ### The level of the reset input (70_reset_and_hazards.md R230, R232) -/

/-- While reset is held the engine has no step. -/
theorem engineComplete_held {s : State} (hr : s.resetAsserted = true) : engineComplete s = .next s := by
  simp [engineComplete, hr]

/-- While reset is held the round unit does not move. -/
theorem engineRound_held {s : State} (hr : s.resetAsserted = true) : engineRound s = s := by
  simp [engineRound, hr]

/-- The step that releases reset clears the level and nothing else. -/
theorem step_resetRelease {s : State} {es : List Event} (h : s.events = .resetRelease :: es) :
    step s = .next { s with events := es, resetAsserted := false } := step_cons h

/-- Settles O60: each move by what it does while the level is held, and the release by the invariant's clause on it. -/
theorem resetLevelHoldsAndReleases : Obligations.ResetLevelHoldsAndReleases := by
  intro s
  refine ⟨fun es h => step_resetAssert h, fun es h => step_resetRelease h,
    fun hr => ⟨fun width a v es h => ?access, fun h => ?quiet, fun e es h he => ?engine⟩,
    fun hinv hr es => ⟨fun h => ?assertAgain, fun h => ?release⟩⟩
  case access =>
    obtain h | h := h
    · simp [step_cons h, takeEvent, hostWrite, hr]
    · simp [step_cons h, takeEvent, hostRead, hr]
  case quiet => simp [step_nil h, runQuiet, hr]
  case engine =>
    rw [step_cons h]
    obtain rfl | rfl := he
    · exact engineComplete_held hr
    · exact congrArg _ (engineRound_held (s := { s with events := es }) hr)
  case assertAgain =>
    have hheld : { s with events := es } = hardReset { s with events := es } :=
      congrArg (fun u : State => { u with events := es }) (hinv.held_in_reset hr)
    rw [step_resetAssert h, hheld, ← hr]
  case release =>
    refine ⟨_, step_resetRelease h, ?_⟩
    rw [hinv.held_in_reset hr]
    exact ⟨⟨rfl, rfl⟩, rfl⟩

/-! ### Fields no command reads: the round unit and the moves still to come -/

/-- A command's effect is the same whatever the round unit holds and whatever moves are still to come. -/
theorem commandEffect_round_events (i : Instr) (s : State) (u : Option RoundUnit) (es : List Event) :
    commandEffect i { s with round := u, events := es } = { commandEffect i s with round := u, events := es } := by
  cases i with
  | squeeze => simp only [commandEffect, squeezeEffect_eq]
  | new | reset | write | sum | wclear | permute | absorbBlock | absorbByte | osFinish => rfl

/-- Neither field decides what `exec` answers, and only they differ in it. -/
theorem exec_round_events {i : Instr} {s t : State} (h : exec i s = .next t) (u : Option RoundUnit) (es : List Event) :
    ∃ u', exec i { s with round := u, events := es } = .next { t with round := u', events := es } := by
  rw [exec_eq_runCommand]
  obtain ⟨hf, rfl⟩ | ⟨hf, c, hi, rfl⟩ | ⟨hf, hi, rfl⟩ := exec_cases h
  · exact ⟨u, runCommand_faulted hf⟩
  · exact ⟨none, runCommand_fault hf hi⟩
  · refine ⟨none, ?_⟩
    rw [runCommand_ok (s := { s with round := u, events := es }) hf hi, commandEffect_round_events]
    rfl

/-! ### A write while busy (60_exceptions.md R205, R208) -/

/-- An abandoned command's effect happened as a whole or not at all, and L is open on its own. -/
theorem abandonTo_cases (t s : State) :
    (∃ l, (l = s.l ∨ l = t.l) ∧ abandonTo t s =
      { s with a := t.a, t := t.t, w := t.w, f := t.f, q := t.q, outValid := t.outValid, l := l, freeIx := s.freeIx + 1 }) ∨
    abandonTo t s = { s with freeIx := s.freeIx + 1 } := by
  unfold abandonTo
  split
  · exact .inl ⟨_, by split <;> simp, rfl⟩
  · exact .inr rfl

/-- A violation is the fault entry on what the abandoned command leaves. -/
theorem violateBusy_of_exec {s u : State} {i : Instr} (hp : s.pending = some i) (hu : exec i s = .next u) :
    violateBusy s = raiseFault .busyViolation (abandonTo u s) := by
  simp only [violateBusy, hp, hu]

/-- A violation is the fault entry, on the state as it was or on what the abandoned command leaves. -/
theorem violateBusy_cases (s : State) :
    violateBusy s = raiseFault .busyViolation s ∨
    ∃ i u, s.pending = some i ∧ exec i s = .next u ∧ violateBusy s = raiseFault .busyViolation (abandonTo u s) := by
  cases hp : s.pending with
  | none => exact .inl (by rw [violateBusy, hp])
  | some i =>
    obtain ⟨u, hu⟩ := exec_total i s
    exact .inr ⟨i, u, rfl, hu, violateBusy_of_exec hp hu⟩

/-- Settles O42: the write is a violation, whose frame is the fault entry and whose elements are those of
`abandonTo_cases`. -/
theorem busyWriteFaults : Obligations.BusyWriteFaults := by
  intro s a v es hr hf hb halign h
  have hstep := step_hostWrite hr h
  rw [if_pos (accessOk_iff.mpr ⟨rfl, halign⟩), regWrite_busy (s := { s with events := es }) hf hb] at hstep
  obtain ⟨hfault, hcode, hpending, hbusy, -, hdin, harg, -⟩ := violateBusy_frame { s with events := es }
  refine ⟨_, hstep, hfault, hcode, hpending, hbusy, hdin, harg, ?status, ?effect⟩
  case status => rw [status_faulted hfault, hcode]; rfl
  case effect =>
    obtain hraise | ⟨i, u, hp, hu, hraise⟩ := violateBusy_cases { s with events := es }
    · exact .inl (by rw [hraise]; exact ⟨rfl, rfl, rfl, rfl, rfl, rfl, rfl⟩)
    obtain ⟨l, hl, habandon⟩ | habandon := abandonTo_cases u { s with events := es }
    · obtain ⟨r, hr⟩ := exec_round_events hu s.round s.events
      refine .inr ⟨i, _, hp, hr, ?_⟩
      rw [hraise, habandon]
      exact ⟨rfl, rfl, rfl, rfl, rfl, rfl, hl⟩
    · exact .inl (by rw [hraise, habandon]; exact ⟨rfl, rfl, rfl, rfl, rfl, rfl, rfl⟩)

end Sys2Proof.Machine

namespace Sys2Proof.Machine

/-! ### The output length and the presented chunk (10_state.md R26, R28) -/

/-- The invariant's two clauses on the length and the chunk, which the effects of the commands must keep. -/
def OutputSound (s : State) : Prop := s.l ≠ 0 ∧ (s.outValid = true ↔ s.q ≠ 0)

/-- A command that passed its issue checks keeps a positive length and a chunk exactly while bytes remain. -/
theorem outputSound_commandEffect {i : Instr} {s : State} (h : OutputSound s) (hi : issueFault i s = none) :
    OutputSound (commandEffect i s) := by
  obtain ⟨-, harg, hvalid⟩ := issueFault_eq_none_iff.mp hi
  obtain ⟨hl, hq⟩ := h
  cases i with
  | new => exact ⟨harg rfl, hq⟩
  | sum => exact ⟨hl, iff_of_true rfl hl⟩
  | osFinish off => exact ⟨hl, iff_of_true rfl (show Config.oneShotLength ≠ 0 by decide)⟩
  | squeeze =>
    rw [commandEffect, squeezeEffect]
    split_ifs with hlt
    · have hrest : s.q - 16 ≠ 0 := by bv_omega
      exact ⟨hl, iff_of_true (hvalid rfl) hrest⟩
    · exact ⟨hl, by simp⟩
  | reset | write | wclear | permute | absorbBlock | absorbByte => exact ⟨hl, hq⟩

/-- What an abandoned command leaves is as sound as the states it is taken from. -/
theorem outputSound_abandonTo {s u : State} (hs : OutputSound s) (hu : OutputSound u) : OutputSound (abandonTo u s) := by
  obtain ⟨l, hl, h⟩ | h := abandonTo_cases u s
  · rw [h]
    exact ⟨by obtain rfl | rfl := hl; exacts [hs.1, hu.1], hu.2⟩
  · rw [h]
    exact hs

/-- After reset the length is 32 and nothing is presented. -/
theorem outputSound_reset : OutputSound State.reset := ⟨by decide, by decide⟩

/-- The invariant's clauses that OutputSound collects. -/
theorem outputSound_of_inv {s : State} (h : Inv s) : OutputSound s := ⟨h.length_positive, h.valid_iff_remaining⟩

/-! ### The invariant of an idle block -/

/-- With nothing pending the invariant is what it says of the length, the chunk, the fault registers and the reset
level. -/
theorem inv_of_idle {s : State} (hbusy : s.busy = false) (hpending : s.pending = none) (hround : s.round = none)
    (hout : OutputSound s) (hcode : s.fault = false → s.faultCode = 0)
    (hfault : s.fault = true → ∃ c, s.faultCode = causeCode c) (hreset : s.resetAsserted = true → s = hardReset s) :
    Inv s where
  busy_iff_pending := by rw [hbusy, hpending]; rfl
  pending_passed_issue := by simp [hpending]
  length_positive := hout.1
  valid_iff_remaining := hout.2
  no_fault_code := hcode
  fault_code := fun hf => ⟨hfault hf, hpending⟩
  round_sound := by simp [RoundUnitSound, hround]
  held_in_reset := hreset

/-- The fault entry gives an idle block with a code of R201. -/
theorem inv_raiseFault {s : State} (h : OutputSound s) (hr : s.resetAsserted = false) (c : FaultCause) :
    Inv (raiseFault c s) :=
  inv_of_idle rfl rfl rfl h nofun (fun _ => ⟨c, rfl⟩) (by simp [hr])

/-- A completed command gives an idle block. -/
theorem inv_retire {s : State} (h : OutputSound s) (hf : s.fault = false) (hcode : s.faultCode = 0)
    (hr : s.resetAsserted = false) : Inv (retire s) :=
  inv_of_idle rfl rfl rfl h (fun _ => hcode) (by simp [hf]) (by simp [hr])

/-- A block held in reset, or just out of it, meets the invariant. -/
theorem inv_hardReset (s : State) : Inv (hardReset s) :=
  inv_of_idle rfl rfl rfl outputSound_reset (fun _ => rfl) nofun (fun _ => rfl)

/-- Settles O50: the state after reset is a hardware reset of itself. -/
theorem invHoldsAtReset : Obligations.InvHoldsAtReset := inv_hardReset State.reset

/-! ### Every move keeps the invariant -/

/-- The invariant does not speak of the moves still to come, of what the host has read, or of the free values. -/
theorem inv_of_model_fields {s : State} (h : Inv s) (es : List Event) (r : List Word) (k : Nat) :
    Inv { s with events := es, replies := r, freeIx := k } :=
  { h with
    round_sound := h.round_sound
    held_in_reset := fun hr =>
      congrArg (fun u : State => { u with events := es, replies := r, freeIx := k }) (h.held_in_reset hr) }

/-- A block without a pending command has an idle round unit. -/
theorem round_eq_none_of_inv {s : State} (h : Inv s) (hp : s.pending = none) : s.round = none := by
  cases hu : s.round with
  | none => rfl
  | some u =>
    obtain ⟨i, -, hi, -⟩ := h.round_sound u hu
    simp [hp] at hi

/-- A block that is not busy has nothing pending. -/
theorem pending_eq_none_of_inv {s : State} (h : Inv s) (hb : s.busy = false) : s.pending = none := by
  simpa [hb] using h.busy_iff_pending

/-- A command completes only without a fault. -/
theorem fault_eq_false_of_pending {s : State} {i : Instr} (h : Inv s) (hp : s.pending = some i) : s.fault = false := by
  by_contra hf
  simp [(h.fault_code (by simpa using hf)).2] at hp

/-- The pending command completes and retires. -/
theorem exec_of_inv {s : State} {i : Instr} (h : Inv s) (hp : s.pending = some i) :
    exec i s = .next (retire (commandEffect i s)) :=
  exec_of_passed (fault_eq_false_of_pending h hp) (h.pending_passed_issue i hp)

/-- The pending command's effect is sound. -/
theorem outputSound_of_pending {s : State} {i : Instr} (h : Inv s) (hp : s.pending = some i) :
    OutputSound (commandEffect i s) :=
  outputSound_commandEffect (outputSound_of_inv h) (h.pending_passed_issue i hp)

/-- Retiring the pending command keeps the invariant. -/
theorem inv_retire_commandEffect {s : State} {i : Instr} (h : Inv s) (hr : s.resetAsserted = false)
    (hp : s.pending = some i) : Inv (retire (commandEffect i s)) := by
  have hf := fault_eq_false_of_pending h hp
  obtain ⟨-, -, hfault, hcode, -, -, -, hreset, -⟩ := commandEffect_frame i s
  exact inv_retire (outputSound_of_pending h hp) (hfault.trans hf) (hcode.trans (h.no_fault_code hf)) (hreset.trans hr)

/-- The engine's complete step keeps the invariant. -/
theorem inv_engineComplete {s t : State} (h : Inv s) (ht : engineComplete s = .next t) : Inv t := by
  obtain rfl | ⟨-, hr, i, hp, hexec⟩ := engineComplete_cases ht
  · exact h
  · obtain rfl : retire (commandEffect i s) = t := by injection (exec_of_inv h hp).symm.trans hexec
    exact inv_retire_commandEffect h hr hp

/-- What the round unit holds after its rounds so far on S is what it holds after one more (40_permutation.md R100). -/
theorem clock_eq_clocks {u : RoundUnit} {S : SpongeState} (hle : u.r ≤ Config.rounds)
    (hu : u = RoundUnit.clocks (Config.rounds - u.r) (RoundUnit.start S)) :
    u.clock.r ≤ Config.rounds ∧ u.clock = RoundUnit.clocks (Config.rounds - u.clock.r) (RoundUnit.start S) := by
  cases hr : u.r with
  | zero =>
    have hclock : u.clock = u := by simp [RoundUnit.clock, hr]
    rw [hclock]
    exact ⟨hle, hu⟩
  | succ n =>
    have hn : u.clock.r = n := by simp [RoundUnit.clock, hr]
    rw [hr] at hle hu
    refine ⟨by omega, ?_⟩
    calc u.clock = (RoundUnit.clocks (Config.rounds - (n + 1)) (RoundUnit.start S)).clock := congrArg _ hu
      _ = RoundUnit.clocks (Config.rounds - (n + 1) + 1) (RoundUnit.start S) := clocks_clock _ _
      _ = RoundUnit.clocks (Config.rounds - u.clock.r) (RoundUnit.start S) := by rw [hn]; congr 1; omega

/-- The round unit's next value is the start on the State the pending command hands it, or one more round. -/
theorem nextRound_sound {s : State} {i : Instr} (h : RoundUnitSound s) (hp : s.pending = some i) :
    RoundUnitSound { s with round := nextRound i s } := by
  intro u hu
  change nextRound i s = some u at hu
  cases hs : s.round with
  | none =>
    rw [nextRound, hs, Option.map_eq_some_iff] at hu
    obtain ⟨S, hS, rfl⟩ := hu
    exact ⟨i, S, hp, hS, le_rfl, rfl⟩
  | some v =>
    rw [nextRound, hs] at hu
    obtain ⟨j, S, hj, hS, hle, hv⟩ := h v hs
    cases hu
    exact ⟨j, S, hj, hS, clock_eq_clocks hle hv⟩

/-- The round unit's move keeps the invariant. -/
theorem inv_engineRound {s : State} (h : Inv s) : Inv (engineRound s) := by
  unfold engineRound
  split_ifs with hstop
  · exact h
  · split
    next => exact h
    next i hp => exact { h with
      round_sound := nextRound_sound h.round_sound hp
      held_in_reset := fun hr => by simp [show s.resetAsserted = true from hr] at hstop }

/-- A violation keeps the invariant: the abandoned command's effect is sound. -/
theorem inv_violateBusy {s : State} (h : Inv s) (hr : s.resetAsserted = false) : Inv (violateBusy s) := by
  obtain hraise | ⟨i, u, hp, hu, hraise⟩ := violateBusy_cases s
  · rw [hraise]
    exact inv_raiseFault (outputSound_of_inv h) hr _
  · obtain rfl : retire (commandEffect i s) = u := by injection (exec_of_inv h hp).symm.trans hu
    have hreset : (abandonTo (retire (commandEffect i s)) s).resetAsserted = false := by
      obtain ⟨l, -, habandon⟩ | habandon := abandonTo_cases (retire (commandEffect i s)) s <;> rw [habandon] <;> exact hr
    rw [hraise]
    exact inv_raiseFault (outputSound_abandonTo (outputSound_of_inv h) (outputSound_of_pending h hp)) hreset _

/-- Issuing a command keeps the invariant: a fault entry, or a command that passed its checks becomes pending. -/
theorem inv_issue {s : State} (h : Inv s) (hready : Ready s) (hr : s.resetAsserted = false) (v : Word) :
    Inv (issue v s) := by
  obtain ⟨-, hraise⟩ | ⟨i, c, -, -, hraise⟩ | ⟨i, -, hi, haccept⟩ := issue_cases v s
  · exact hraise ▸ inv_raiseFault (outputSound_of_inv h) hr _
  · exact hraise ▸ inv_raiseFault (outputSound_of_inv h) hr c
  · have hround := round_eq_none_of_inv h (pending_eq_none_of_inv h hready.2)
    rw [haccept]
    exact { h with
      busy_iff_pending := rfl
      pending_passed_issue := by rintro j ⟨⟩; exact hi
      fault_code := by simp [hready.1]
      round_sound := by simp [RoundUnitSound, hround]
      held_in_reset := by simp [hr] }

/-- Writing a register of a ready block keeps the invariant. -/
theorem inv_writeReg {s : State} (h : Inv s) (hready : Ready s) (hr : s.resetAsserted = false) (r : Reg) (v : Word) :
    Inv (writeReg r v s) := by
  have hp := pending_eq_none_of_inv h hready.2
  have hround := round_eq_none_of_inv h hp
  have hout := outputSound_of_inv h
  cases r with
  | cmd => exact inv_issue h hready hr v
  | arg | din | w =>
    exact inv_of_idle hready.2 hp hround hout h.no_fault_code
      (fun hf => (h.fault_code hf).1) (by simp [writeReg, hr])
  | status | outlen | blocksize | outrem | dout | reserved => exact h

/-- RegWrite with reset released keeps the invariant. -/
theorem inv_regWrite {s : State} (h : Inv s) (hr : s.resetAsserted = false) (a : Offset) (v : Word) :
    Inv (regWrite a v s) := by
  unfold regWrite
  split_ifs with hf hb
  · exact h
  · exact inv_violateBusy h hr
  · exact inv_writeReg h ⟨by simpa using hf, by simpa using hb⟩ hr _ v

/-- RegRead keeps the invariant. -/
theorem inv_regRead {s : State} (h : Inv s) (a : Offset) : Inv (regRead a s) := by
  obtain ⟨v, k, hread⟩ := regRead_eq a s
  exact hread ▸ inv_of_model_fields h s.events _ k

/-- Releasing reset keeps the invariant. -/
theorem inv_resetRelease {s : State} (h : Inv s) : Inv { s with resetAsserted := false } :=
  { h with
    round_sound := h.round_sound
    held_in_reset := nofun }

/-- A host write that goes on finds reset released. -/
theorem resetAsserted_of_hostWrite {width : AccessWidth} {a : Offset} {v : Word} {s t : State}
    (h : hostWrite width a v s = .next t) : s.resetAsserted = false := by
  unfold hostWrite at h
  split_ifs at h with hr
  simpa using hr

/-- Every move keeps the invariant. -/
theorem inv_takeEvent {e : Event} {s t : State} (h : Inv s) (ht : takeEvent e s = .next t) : Inv t := by
  cases e with
  | hostWrite width a v =>
    have hr := resetAsserted_of_hostWrite ht
    obtain ⟨-, -, rfl⟩ := hostWrite_eq_next ht
    exact inv_regWrite h hr a v
  | hostRead width a =>
    obtain ⟨-, rfl⟩ := hostRead_eq_next ht
    exact inv_regRead h a
  | engineComplete => exact inv_engineComplete h ht
  | engineRound => cases ht; exact inv_engineRound h
  | resetAssert => cases ht; exact inv_hardReset _
  | resetRelease => cases ht; exact inv_resetRelease h

/-- Settles O51: every move keeps the invariant, and so does the completion when no move is left. -/
theorem stepKeepsInv : Obligations.StepKeepsInv := by
  intro s t h ht
  cases he : s.events with
  | nil =>
    rw [step_nil he, runQuiet] at ht
    split_ifs at ht
    · cases ht; exact h
    · exact inv_engineComplete h ht
  | cons e es =>
    rw [step_cons he] at ht
    exact inv_takeEvent (inv_of_model_fields h es s.replies s.freeIx) ht

/-- Settles O52: the pending command retires, and the idle block then waits. -/
theorem pendingCommandCompletes : Obligations.PendingCommandCompletes := by
  intro s h hr hb he
  obtain ⟨i, hp⟩ := Option.isSome_iff_exists.mp (h.busy_iff_pending ▸ hb)
  have hf := fault_eq_false_of_pending h hp
  obtain ⟨-, -, hfault, -, -, -, -, hreset, hevents, -⟩ := commandEffect_frame i s
  replace hfault := hfault.trans hf
  replace hreset := hreset.trans hr
  replace hevents := hevents.trans he
  refine ⟨_, (step_nil_of_pending he hf hr hp).trans (exec_of_inv h hp), ⟨hevents, hreset, rfl, hfault⟩, ?_⟩
  rw [step_nil (s := retire (commandEffect i s)) hevents]
  simp [runQuiet, engineComplete, hreset, hfault]

end Sys2Proof.Machine

namespace Sys2Proof.Machine

/-! ### The SP-box and the layers are injective (40_permutation.md section 4) -/

/-- Bit j of a word stands at bit (j + n) mod 32 of its rotation by n. -/
theorem getLsbD_rotl32 (x : Word) {n j : Nat} (hn : n < 32) (hj : j < 32) :
    (rotl32 x n).getLsbD ((j + n) % 32) = x.getLsbD j := by
  rw [rotl32_eq_rotateLeft x hn, BitVec.getLsbD_rotateLeft, Nat.mod_eq_of_lt hn]
  by_cases h : j + n < 32
  · simp [Nat.mod_eq_of_lt h, h]
  · have hlt : (j + n) % 32 < n := by omega
    have hpos : 32 - n + (j + n) % 32 = j := by omega
    simp [hlt, hpos]

/-- A rotation loses no bit. -/
theorem rotl32_injective {n : Nat} (hn : n < 32) : Function.Injective (rotl32 · n) := by
  intro x y h
  refine BitVec.eq_of_getLsbD_eq fun j hj => ?_
  rw [← getLsbD_rotl32 x hn hj, ← getLsbD_rotl32 y hn hj]
  exact congrArg (·.getLsbD ((j + n) % 32)) h

/-- A bit of a left shift is a lower bit of the word. -/
theorem getLsbD_shiftLeft_congr {x y : Word} {i n : Nat} (hn : 0 < n) (h : ∀ j < i, x.getLsbD j = y.getLsbD j) :
    (x <<< n).getLsbD i = (y <<< n).getLsbD i := by
  rw [BitVec.getLsbD_shiftLeft, BitVec.getLsbD_shiftLeft]
  by_cases hlt : i < n
  · simp [hlt]
  · rw [h (i - n) (by omega)]

/-- The SP-box on its rotated inputs: the shifted products make bit i depend on lower bits only, so the three bits at i are
found from the outputs one after the other, from the least significant bit up. -/
theorem spboxMix_injective {x y z x' y' z' : Word}
    (hc : x ^^^ (z <<< 1) ^^^ ((y &&& z) <<< 2) = x' ^^^ (z' <<< 1) ^^^ ((y' &&& z') <<< 2))
    (hb : y ^^^ x ^^^ ((x ||| z) <<< 1) = y' ^^^ x' ^^^ ((x' ||| z') <<< 1))
    (ha : z ^^^ y ^^^ ((x &&& y) <<< 3) = z' ^^^ y' ^^^ ((x' &&& y') <<< 3)) : x = x' ∧ y = y' ∧ z = z' := by
  have hbits (i : Nat) : x.getLsbD i = x'.getLsbD i ∧ y.getLsbD i = y'.getLsbD i ∧ z.getLsbD i = z'.getLsbD i := by
    induction i using Nat.strong_induction_on with
    | h i ih =>
      have hz : (z <<< 1).getLsbD i = (z' <<< 1).getLsbD i :=
        getLsbD_shiftLeft_congr (by decide) fun j hj => (ih j hj).2.2
      have hyz : ((y &&& z) <<< 2).getLsbD i = ((y' &&& z') <<< 2).getLsbD i :=
        getLsbD_shiftLeft_congr (by decide) fun j hj => by
          rw [BitVec.getLsbD_and, BitVec.getLsbD_and, (ih j hj).2.1, (ih j hj).2.2]
      have hxz : ((x ||| z) <<< 1).getLsbD i = ((x' ||| z') <<< 1).getLsbD i :=
        getLsbD_shiftLeft_congr (by decide) fun j hj => by
          rw [BitVec.getLsbD_or, BitVec.getLsbD_or, (ih j hj).1, (ih j hj).2.2]
      have hxy : ((x &&& y) <<< 3).getLsbD i = ((x' &&& y') <<< 3).getLsbD i :=
        getLsbD_shiftLeft_congr (by decide) fun j hj => by
          rw [BitVec.getLsbD_and, BitVec.getLsbD_and, (ih j hj).1, (ih j hj).2.1]
      have hx : x.getLsbD i = x'.getLsbD i := by
        simpa [BitVec.getLsbD_xor, hz, hyz] using congrArg (·.getLsbD i) hc
      have hy : y.getLsbD i = y'.getLsbD i := by
        simpa [BitVec.getLsbD_xor, hxz, hx] using congrArg (·.getLsbD i) hb
      have hz' : z.getLsbD i = z'.getLsbD i := by
        simpa [BitVec.getLsbD_xor, hxy, hy] using congrArg (·.getLsbD i) ha
      exact ⟨hx, hy, hz'⟩
  exact ⟨BitVec.eq_of_getLsbD_eq fun i _ => (hbits i).1, BitVec.eq_of_getLsbD_eq fun i _ => (hbits i).2.1,
    BitVec.eq_of_getLsbD_eq fun i _ => (hbits i).2.2⟩

/-- The SP-box is injective. -/
theorem spbox_injective {a b c a' b' c' : Word} (h : spbox a b c = spbox a' b' c') : a = a' ∧ b = b' ∧ c = c' := by
  simp only [spbox, Prod.mk.injEq] at h
  obtain ⟨ha, hb, hc⟩ := h
  obtain ⟨hx, hy, hz⟩ := spboxMix_injective hc hb ha
  exact ⟨rotl32_injective (by decide) hx, rotl32_injective (by decide) hy, hz⟩

/-- The column layer is injective, column by column. -/
theorem columns_injective : Function.Injective columns := by
  intro S S' h
  have hcolumn (i : Nat) (hi : i < 4) : S[i] = S'[i] ∧ S[i + 4] = S'[i + 4] ∧ S[i + 8] = S'[i + 8] := by
    have hbox := columns_column S hi
    simp only [h, columns_column S' hi] at hbox
    obtain ⟨h0, h4, h8⟩ := spbox_injective hbox
    exact ⟨h0.symm, h4.symm, h8.symm⟩
  refine Vector.ext fun j hj => ?_
  obtain ⟨h0, h4, h8⟩ := hcolumn (j % 4) (Nat.mod_lt _ (by decide))
  obtain hrow | hrow | hrow : j = j % 4 ∨ j = j % 4 + 4 ∨ j = j % 4 + 8 := by omega
  · simpa only [← hrow] using h0
  · simpa only [← hrow] using h4
  · simpa only [← hrow] using h8

/-- The small swap undoes itself. -/
theorem smallSwap_involutive : Function.Involutive smallSwap := by
  intro S
  ext j hj
  interval_cases j <;> rfl

/-- The big swap undoes itself. -/
theorem bigSwap_involutive : Function.Involutive bigSwap := by
  intro S
  ext j hj
  interval_cases j <;> rfl

/-- XORing the round constant undoes itself. -/
theorem addConstant_involutive (r : Nat) : Function.Involutive (addConstant r) := by
  intro S
  simp [addConstant]

/-- The linear layer of every round is injective. -/
theorem linear_injective (r : Nat) : Function.Injective (linear r) := by
  unfold linear
  split_ifs
  · exact (addConstant_involutive r).injective.comp smallSwap_involutive.injective
  · exact bigSwap_involutive.injective
  · exact Function.injective_id

/-- Every round is injective: its two layers are. -/
theorem spongeRound_injective (r : Nat) : Function.Injective (spongeRound r) :=
  (linear_injective r).comp columns_injective

/-- Rounds in sequence are injective. -/
theorem roundsFrom_injective (n : Nat) : Function.Injective (roundsFrom n) := by
  induction n with
  | zero => exact Function.injective_id
  | succ n ih => exact ih.comp (spongeRound_injective (n + 1))

/-- There are finitely many States, so an injective map of them is a bijection. -/
theorem bijective_of_injective {f : SpongeState → SpongeState} (h : Function.Injective f) : Function.Bijective f := by
  have hfinite : Finite SpongeState :=
    Finite.of_injective (fun (S : SpongeState) (i : Fin 12) => S[i]) fun S S' hS =>
      Vector.ext fun j hj => congrFun hS ⟨j, hj⟩
  exact Finite.injective_iff_bijective.mp h

/-- Settles O10: the layers are injective, so each round and P are, on finitely many States. -/
theorem permutationIsBijective : Obligations.PermutationIsBijective :=
  ⟨bijective_of_injective (roundsFrom_injective Config.rounds),
    fun r _ _ => bijective_of_injective (spongeRound_injective r)⟩

/-! ### The round unit (40_permutation.md R100; 10_state.md R34) -/

/-- Each round counts r down by one, and 0 stays. -/
theorem clocks_r (n : Nat) (u : RoundUnit) : (RoundUnit.clocks n u).r = u.r - n := by
  induction n generalizing u with
  | zero => rfl
  | succ n ih =>
    have hclock : u.clock.r = u.r - 1 := by cases hr : u.r <;> simp [RoundUnit.clock, hr]
    rw [clocks_succ, ih, hclock]
    omega

/-- The rounds still to do on the intermediate State give the same result after each round. -/
theorem roundsFrom_clocks (n : Nat) (u : RoundUnit) :
    roundsFrom (RoundUnit.clocks n u).r (RoundUnit.clocks n u).st = roundsFrom u.r u.st := by
  induction n generalizing u with
  | zero => rfl
  | succ n ih =>
    rw [clocks_succ, ih]
    cases hr : u.r <;> simp [RoundUnit.clock, hr, roundsFrom]

/-- Cycles of d rounds each are the rounds one by one. -/
theorem clocks_iterate (d k : Nat) (u : RoundUnit) : (RoundUnit.clocks d)^[k] u = RoundUnit.clocks (d * k) u := by
  induction k with
  | zero => rfl
  | succ k ih => rw [Function.iterate_succ_apply', ih, ← clocks_add, Nat.mul_succ]

/-- Settles O11: after 24 rounds no round is left, so the intermediate State is the result; before that r counts down. -/
theorem roundUnitComputesPermutation : Obligations.RoundUnitComputesPermutation := by
  intro S d hd
  have hr (n : Nat) : (RoundUnit.clocks n (RoundUnit.start S)).r = 24 - n := clocks_r n _
  have hdone (n : Nat) : (RoundUnit.clocks n (RoundUnit.start S)).done = (24 - n == 0) := congrArg (· == 0) (hr n)
  rw [clocks_iterate, Nat.mul_div_cancel' hd, hdone]
  refine ⟨rfl, ?result, fun k hk => ?before⟩
  case result =>
    have hresult := roundsFrom_clocks 24 (RoundUnit.start S)
    rwa [hr 24] at hresult
  case before =>
    have hlt : d * k < 24 := (Nat.lt_div_iff_mul_lt' hd k).mp hk
    rw [clocks_iterate, hdone]
    exact ⟨hr _, by simpa using Nat.sub_ne_zero_of_lt hlt⟩

/-! ### A State on the bus (00_scope.md R7) -/

/-- Word i of a State is bits [32i+31 : 32i] of the bus. -/
theorem stateBus_extract_word (S : SpongeState) {i : Nat} (hi : i < 12) :
    (stateBus S).extractLsb' (32 * i) 32 = S[i] := by
  change (S[11] ++ S[10] ++ S[9] ++ S[8] ++ S[7] ++ S[6] ++ S[5] ++ S[4] ++ S[3] ++ S[2] ++ S[1] ++ S[0]).extractLsb'
    (32 * i) 32 = S[i]
  interval_cases i <;>
    simp (disch := decide) only [BitVec.extractLsb'_append_eq_of_le, BitVec.extractLsb'_append_eq_of_add_le, Nat.reduceMul,
      Nat.reduceSub, BitVec.extractLsb'_eq_self]

/-- Settles O14: a byte of the bus is a lane of the word that holds it. -/
theorem busPacking : Obligations.BusPacking := by
  refine fun S => ⟨fun i hi => stateBus_extract_word S hi, fun k hk => ?_⟩
  rw [stateByte_eq S hk, laneByte_eq_extractLsb', ← stateBus_extract_word S (by omega)]
  ext b hb
  have hlt : 8 * (k % 4) + b < 32 := by omega
  have hpos : 32 * (k / 4) + (8 * (k % 4) + b) = 8 * k + b := by omega
  simp only [BitVec.getElem_extractLsb', BitVec.getLsbD_extractLsb', hlt, hpos, decide_true, Bool.true_and]

end Sys2Proof.Machine

namespace Sys2Proof.Machine

/-! ### WRITE at the block boundary (42_streaming_write.md R143, R144) -/

/-- The offset of the first free rate byte is a rate offset. -/
theorem pendingBytes_lt (s : State) : pendingBytes s < 16 := Nat.mod_lt _ (by decide)

/-- A legal count is at most the rate. -/
theorem count_toNat_le {n : BitVec 5} (hn : n ≤ 16) : n.toNat ≤ 16 := hn

/-- A WRITE short of the block boundary XORs its bytes after the bytes pending. -/
theorem writeEffect_a_of_lt {n : BitVec 5} {s : State} (h : pendingBytes s + n.toNat < 16) :
    (writeEffect n s).a = xorBytes s.a (pendingBytes s) (dinBytes s.din n.toNat) :=
  absorbInto_of_lt_rate s.a (by rwa [length_dinBytes])

/-- A WRITE that reaches the block boundary finishes the block, runs P once and XORs the rest at offset 0. -/
theorem writeEffect_a_of_le {n : BitVec 5} {s : State} (hn : n ≤ 16) (h : 16 ≤ pendingBytes s + n.toNat) :
    (writeEffect n s).a =
      xorBytes (perm (xorBytes s.a (pendingBytes s) ((dinBytes s.din n.toNat).take (16 - pendingBytes s)))) 0
        ((dinBytes s.din n.toNat).drop (16 - pendingBytes s)) := by
  have ho := pendingBytes_lt s
  have hn16 := count_toNat_le hn
  have hfill : pendingBytes s + ((dinBytes s.din n.toNat).take (16 - pendingBytes s)).length = 16 := by
    rw [List.length_take, length_dinBytes]; omega
  have hrest : 0 + ((dinBytes s.din n.toNat).drop (16 - pendingBytes s)).length < 16 := by
    rw [List.length_drop, length_dinBytes]; omega
  calc (writeEffect n s).a
      = absorbInto s.a (pendingBytes s) ((dinBytes s.din n.toNat).take (16 - pendingBytes s) ++
          (dinBytes s.din n.toNat).drop (16 - pendingBytes s)) := by rw [List.take_append_drop]; rfl
    _ = _ := by rw [absorbInto_append_of_rate _ _ ho hfill, absorbInto_of_lt_rate _ hrest]

/-- A WRITE hands the round unit a State when it reaches the block boundary (40_permutation.md R100). -/
theorem permInput_write (n : BitVec 5) (s : State) :
    permInput (.write n) s =
      if 16 ≤ pendingBytes s + n.toNat then
        some (xorBytes s.a (pendingBytes s) ((dinBytes s.din n.toNat).take (16 - pendingBytes s)))
      else none := by
  simp only [permInput, length_dinBytes, Config.rate]

/-- WRITE's one check is its count. -/
theorem issueFault_write {n : BitVec 5} (hn : n ≤ 16) (s : State) : issueFault (.write n) s = none :=
  issueFault_of_unchecked (wellFormed_write.mpr hn) nofun nofun s

/-- Settles O28: short of the boundary and at it, the words above the rate of `writeEffect_a_of_lt` and
`writeEffect_a_of_le`, which no XOR reaches. -/
theorem writeMovesCapacityOnlyThroughP : Obligations.WriteMovesCapacityOnlyThroughP := by
  intro n s t hn hf ht
  obtain rfl := exec_eq_retire_of_passed hf (issueFault_write hn s) ht
  refine ⟨xorBytes_capacity _ _ _, ?_⟩
  change if pendingBytes s + n.toNat < 16 then _ else _
  rw [permInput_write]
  split_ifs with hlt hle hle
  · omega
  · exact ⟨rfl, fun j hj hc => (congrArg (·[j]) (writeEffect_a_of_lt hlt)).trans (xorBytes_capacity _ _ _ j hj hc)⟩
  · exact ⟨rfl, fun j hj hc => (congrArg (·[j]) (writeEffect_a_of_le hn hle)).trans (xorBytes_capacity _ _ _ j hj hc)⟩
  · omega

/-- A full block written into an empty rate is `absorb_block`. -/
theorem writeEffect_a_of_block {s : State} (ho : pendingBytes s = 0) :
    (writeEffect 16 s).a = absorbBlock s.a (dinBytes s.din 16) := by
  rw [writeEffect_a_of_le (by decide) (by rw [ho]; decide), ho, absorbBlock, xorBlock_eq_xorBytes _ (length_dinBytes _ _),
    List.take_of_length_le (by simp), List.drop_of_length_le (by simp)]
  rfl

/-- Inputs that agree on their first n bytes give the same n bytes. -/
theorem dinBytes_congr {D D' : Vector Word 4} {n : Nat} (h : ∀ k < n, dinByte D k = dinByte D' k) :
    dinBytes D n = dinBytes D' n :=
  List.map_congr_left fun k hk => h k (List.mem_range.mp hk)

/-- Settles O26: each case from WRITE short of the boundary or at it, and DIN only through its first N bytes. -/
theorem writeCornerCases : Obligations.WriteCornerCases := by
  intro n s t hn hf ht
  obtain rfl := exec_eq_retire_of_passed hf (issueFault_write hn s) ht
  refine ⟨rfl, ?none, ?block, writeEffect_a_of_lt, fun _ => writeEffect_a_of_le hn, fun D hD => ?beyond⟩
  case none =>
    rintro rfl
    exact ⟨writeEffect_a_of_lt (n := 0) (pendingBytes_lt s), BitVec.add_zero _⟩
  case block =>
    rintro ho rfl
    have hoff := toNat_add_ofNat_mod_rate s.t 16
    exact ⟨writeEffect_a_of_block ho, by rwa [ho] at hoff⟩
  case beyond =>
    refine ⟨_, exec_of_passed (s := { s with din := D }) hf (issueFault_write hn _), ?_, rfl⟩
    exact congrArg (absorbInto s.a (pendingBytes s)) (dinBytes_congr hD)

/-! ### What each command hands the round unit (40_permutation.md R100) -/

/-- Every word of the created-empty State is 0. -/
theorem zero_getElem {j : Nat} (hj : j < 12) : SpongeState.zero[j] = 0 := by interval_cases j <;> rfl

/-- Settles O12: the State of each command that runs P is the one in its effect; the others XOR into the rate, clear, or leave
the State alone. -/
theorem roundUnitInputIsWhatTheCommandPermutes : Obligations.RoundUnitInputIsWhatTheCommandPermutes := by
  intro i s t hf hi ht
  obtain rfl := exec_eq_retire_of_passed hf hi ht
  cases i with
  | new | reset => exact fun j hj _ => ⟨.inr (zero_getElem hj), .inl rfl, rfl⟩
  | wclear => exact fun j hj _ => ⟨.inl rfl, .inr (zero_getElem hj), rfl⟩
  | absorbByte off byte => exact fun j hj hc => ⟨.inl rfl, .inl (xorByte_capacity _ _ _ j hj hc), rfl⟩
  | sum | permute | absorbBlock => rfl
  | osFinish off => exact ⟨rfl, rfl⟩
  | squeeze =>
    rw [permInput, commandEffect, squeezeEffect]
    split_ifs with hq
    · rfl
    · exact fun j hj _ => ⟨.inl rfl, .inl rfl, rfl⟩
  | write n =>
    have hn : n ≤ 16 := wellFormed_write.mp (issueFault_eq_none_iff.mp hi).1
    rw [permInput_write]
    split_ifs with hle
    · exact writeEffect_a_of_le hn hle
    · have hlt : pendingBytes s + n.toNat < 16 := by omega
      refine fun j hj hc => ⟨.inl ?_, .inl rfl, rfl⟩
      exact (congrArg (·[j]) (writeEffect_a_of_lt hlt)).trans (xorBytes_capacity _ _ _ j hj hc)

end Sys2Proof.Machine

namespace Sys2Proof

open Machine

/-! ### A message in pieces (42_streaming_write.md section 4; 30_encoding.md R83) -/

/-- A well-formed command that passes its checks on a ready block is done by its effect. -/
theorem doCommand_of_passed {i : Instr} {s : State} (h : Ready s) (hr : s.resetAsserted = false)
    (hi : issueFault i s = none) : doCommand i s = retire (commandEffect i s) :=
  doCommand_ok h hr (decode_encode (issueFault_eq_none_iff.mp hi).1) hi

/-- A well-formed command that reads neither ARG nor OUT_VALID is done by its effect on every ready block. -/
theorem doCommand_of_unchecked (i : Instr) (hi : i.WellFormed) (hnew : i ≠ .new) (hsqueeze : i ≠ .squeeze) {s : State}
    (h : Ready s) (hr : s.resetAsserted = false) : doCommand i s = retire (commandEffect i s) :=
  doCommand_of_passed h hr (issueFault_of_unchecked hi hnew hsqueeze s)

/-- The four DIN words of a piece. -/
def pieceWords (p : List Byte) : Vector Word 4 := #v[blockWord p 0, blockWord p 1, blockWord p 2, blockWord p 3]

/-- Byte k of DIN after loading a piece is byte k of the piece, 0 past its end. -/
theorem dinByte_pieceWords (p : List Byte) {k : Nat} (hk : k < 16) : dinByte (pieceWords p) k = p.getD k 0 := by
  have hword {j : Nat} (hj : j < 4) : (pieceWords p)[j] = blockWord p j := by interval_cases j <;> rfl
  rw [dinByte, dif_pos hk, hword (by omega), laneByte_blockWord p _ (Nat.mod_lt _ (by decide)), Nat.div_add_mod]

/-- A loaded piece is read back from DIN byte by byte. -/
theorem dinBytes_pieceWords {p : List Byte} (hp : p.length ≤ 16) : dinBytes (pieceWords p) p.length = p := by
  refine List.ext_getElem (length_dinBytes _ _) fun k hk hk' => ?_
  rw [List.getElem_eq_getD 0, getD_dinBytes _ hk', dinByte_pieceWords p (by omega), List.getElem_eq_getD 0]

/-- `loaddin` on a ready block writes the words of the piece into DIN and nothing else. -/
theorem loadDin_ready {s : State} (h : Ready s) (p : List Byte) : loadDin p s = { s with din := pieceWords p } := by
  have hset (D : Vector Word 4) (x0 x1 x2 x3 : Word) :
      (((D.set 0 x0).set 1 x1).set 2 x2).set 3 x3 = #v[x0, x1, x2, x3] := by
    ext j hj
    interval_cases j <;> simp
  have hwrite (D : Vector Word 4) (j : Fin 4) {a : Offset} (ha : regAt a = .din j) (v : Word) :
      regWrite a v { s with din := D } = { s with din := D.set j v } := regWrite_din (s := { s with din := D }) h j v ha
  calc loadDin p s
      = regWrite 0x2C (blockWord p 3) (regWrite 0x28 (blockWord p 2) (regWrite 0x24 (blockWord p 1)
          { s with din := s.din.set 0 (blockWord p 0) })) := by rw [loadDin, hwrite s.din 0 rfl]; rfl
    _ = { s with din := pieceWords p } := by
      rw [hwrite _ 1 rfl, hwrite _ 2 rfl, hwrite _ 3 rfl, pieceWords, ← hset s.din]
      rfl

/-- `loaddin` and `do WRITE` of a piece fold its bytes into the context (R145). -/
theorem writePiece_ready {s : State} (h : Ready s) (hr : s.resetAsserted = false) {p : List Byte} (hp : p.length ≤ 16) :
    writePiece p s = retire { s with
      din := pieceWords p, a := (absorbFold s.a s.t p).1, t := (absorbFold s.a s.t p).2 } := by
  have hcount : (BitVec.ofNat 5 p.length).toNat = p.length := Nat.mod_eq_of_lt (by omega)
  have hn : BitVec.ofNat 5 p.length ≤ 16 := by rw [BitVec.le_def, hcount]; exact hp
  rw [writePiece, loadDin_ready h, doCommand_of_passed (s := { s with din := pieceWords p }) h hr (issueFault_write hn _),
    commandEffect, writeEffect_eq_absorbFold]
  simp only [hcount, dinBytes_pieceWords hp]

/-- Pieces written one after another leave the block ready, keep L, and fold their concatenation into the context. -/
theorem writePieces_ready {s : State} (h : Ready s) (hr : s.resetAsserted = false) {ps : List (List Byte)}
    (hps : ∀ p ∈ ps, p.length ≤ 16) :
    Ready (writePieces ps s) ∧ (writePieces ps s).resetAsserted = false ∧ (writePieces ps s).l = s.l ∧
    (writePieces ps s).a = (absorbFold s.a s.t ps.flatten).1 ∧
    (writePieces ps s).t = (absorbFold s.a s.t ps.flatten).2 := by
  induction ps generalizing s with
  | nil => exact ⟨h, hr, rfl, rfl, rfl⟩
  | cons p ps ih =>
    have hp := writePiece_ready h hr (hps p List.mem_cons_self)
    have hstep : writePieces (p :: ps) s = writePieces ps (writePiece p s) := rfl
    rw [hstep, List.flatten_cons, absorbFold_append, hp]
    exact ih (s := retire _) ⟨h.1, rfl⟩ hr fun q hq => hps q (List.mem_cons_of_mem p hq)

/-- Settles O27: A and T after the pieces are the byte fold over their concatenation. -/
theorem chunkInvariance : Obligations.ChunkInvariance := by
  intro s ps qs h hr hps hqs hflat
  obtain ⟨-, -, -, ha, ht⟩ := writePieces_ready h hr hps
  obtain ⟨-, -, -, ha', ht'⟩ := writePieces_ready h hr hqs
  rw [ha, ht, ha', ht', hflat]
  exact ⟨rfl, rfl, rfl, absorbFold_snd _ _ _⟩

end Sys2Proof

namespace Sys2Proof.Machine

/-! ### Registers that store what is written (20_memory.md R51, R53) -/

/-- The registers a write stores into: ARG, DIN and W. -/
def storesWrite : Reg → Bool
  | .arg => true
  | .din _ => true
  | .w _ => true
  | .cmd => false
  | .status => false
  | .outlen => false
  | .blocksize => false
  | .outrem => false
  | .dout _ => false
  | .reserved => false

/-- The offset of a register that stores. -/
def storeOffset : Reg → Offset
  | .din j => BitVec.ofNat 8 (0x20 + 4 * j)
  | .w i => BitVec.ofNat 8 (0x40 + 4 * i)
  | .cmd => 0x00
  | .arg => 0x08
  | .status => 0x04
  | .outlen => 0x0C
  | .blocksize => 0x10
  | .outrem => 0x14
  | .dout j => BitVec.ofNat 8 (0x30 + 4 * j)
  | .reserved => 0x18

/-- A register that stores stands at one aligned offset only. -/
theorem storeOffset_regAt {a : Offset} : a.toNat % 4 = 0 → storesWrite (regAt a) = true → storeOffset (regAt a) = a := by
  revert a; decide

/-- Where the registers that store stand. -/
theorem storesWrite_regAt_iff {a : Offset} : a.toNat % 4 = 0 →
    (storesWrite (regAt a) = true ↔
      a = 0x08 ∨ (0x20 ≤ a.toNat ∧ a.toNat ≤ 0x2C) ∨ (0x40 ≤ a.toNat ∧ a.toNat ≤ 0x6C)) := by
  revert a; decide

/-- What a register shows after a write to another register than CMD. -/
theorem readReg_writeReg {r : Reg} (hr : r ≠ .cmd) (r' : Reg) (v : Word) (s : State) :
    readReg r' (writeReg r v s) = if r = r' ∧ storesWrite r = true then v else readReg r' s := by
  cases r with
  | cmd => exact absurd rfl hr
  | arg => cases r' <;> simp [storesWrite] <;> rfl
  | din j => cases r' <;> simp [storesWrite, readReg, writeReg, Vector.getElem_set, Fin.ext_iff] <;> rfl
  | w i => cases r' <;> simp [storesWrite, readReg, writeReg, Vector.getElem_set, Fin.ext_iff] <;> rfl
  | status | outlen | blocksize | outrem | dout | reserved => simp [storesWrite, writeReg]

/-- Settles O37: the register written shows the value if it stores, and it stands at that offset only. -/
theorem writeThenRead : Obligations.WriteThenRead := by
  intro s a b v h ha hb hcmd
  have hstores := storesWrite_regAt_iff ha
  rw [regWrite_ready h.1 h.2, readReg_writeReg (regAt_ne_cmd hcmd)]
  refine if_congr ⟨fun ⟨hreg, hst⟩ => ⟨?_, hstores.mp hst⟩, fun ⟨hab, hst⟩ => ⟨congrArg regAt hab, hstores.mpr hst⟩⟩
    rfl rfl
  rw [← storeOffset_regAt ha hst, hreg, storeOffset_regAt hb (hreg ▸ hst)]

/-! ### What a read cannot show (10_state.md sections 2 to 5) -/

/-- No register shows A or T, and DOUT shows F through the presented bytes only. -/
theorem readReg_context {s : State} {A F : SpongeState} {T : BitVec 64}
    (h : ∀ k < outBytes s, stateByte F k = stateByte s.f k) (r : Reg) :
    readReg r { s with a := A, t := T, f := F } = readReg r s := by
  cases r with
  | dout j =>
    have hchunk (i : Nat) : chunkByte { s with a := A, t := T, f := F } i = chunkByte s i :=
      if_ctx_congr Iff.rfl (h i) fun _ => rfl
    simp only [readReg, dout, hchunk]
  | cmd | status | arg | outlen | blocksize | outrem | din | w | reserved => rfl

/-- Settles O54: neither what a read returns nor whether it is free depends on them. -/
theorem contextIsUnreadable : Obligations.ContextIsUnreadable := by
  intro s A F T a h
  have hfree : readIsFree (regAt a) { s with a := A, t := T, f := F } = readIsFree (regAt a) s := rfl
  unfold regRead
  rw [hfree, readReg_context h]
  split_ifs <;> rfl

/-! ### The round unit is invisible (10_state.md R34) -/

/-- Two outcomes of a step that differ at most in the round unit of the next state. -/
inductive SameButRound : Host.Outcome State Fault Refusal → Host.Outcome State Fault Refusal → Prop
  /-- next states that differ at most there -/
  | next (t : State) (u : Option RoundUnit) : SameButRound (.next t) (.next { t with round := u })
  /-- the same fault -/
  | fault (r : Fault) : SameButRound (.fault r) (.fault r)
  /-- the same refusal -/
  | refused (r : Refusal) : SameButRound (.refused r) (.refused r)

/-- A next state has a next state beside it. -/
theorem SameButRound.eq_next {t : State} {o : Host.Outcome State Fault Refusal} (h : SameButRound (.next t) o) :
    ∃ u, o = .next { t with round := u } := by cases h; exact ⟨_, rfl⟩

/-- A fault has the same fault beside it. -/
theorem SameButRound.eq_fault {r : Fault} {o : Host.Outcome State Fault Refusal} (h : SameButRound (.fault r) o) :
    o = .fault r := by cases h; rfl

/-- A refusal has the same refusal beside it. -/
theorem SameButRound.eq_refused {r : Refusal} {o : Host.Outcome State Fault Refusal}
    (h : SameButRound (.refused r) o) : o = .refused r := by cases h; rfl

/-- Equal states but for the round unit are next states that agree. -/
theorem SameButRound.of_exists {t t' : State} (h : ∃ u, t' = { t with round := u }) :
    SameButRound (.next t) (.next t') := by
  obtain ⟨u, rfl⟩ := h
  exact .next t u

/-- A command leaves the moves still to come. -/
theorem exec_events {i : Instr} {s t : State} (h : exec i s = .next t) : t.events = s.events := by
  obtain ⟨-, rfl⟩ | ⟨-, c, -, rfl⟩ | ⟨-, -, rfl⟩ := exec_cases h
  · rfl
  · rfl
  · obtain ⟨-, -, -, -, -, -, -, -, hevents, -⟩ := commandEffect_frame i s
    exact hevents

/-- What a command answers, whatever the round unit holds. -/
theorem exec_round {i : Instr} {s t : State} (h : exec i s = .next t) (u : Option RoundUnit) :
    ∃ u', exec i { s with round := u } = .next { t with round := u' } := by
  obtain ⟨u', hu'⟩ := exec_round_events h u s.events
  exact ⟨u', hu'.trans (by rw [← exec_events h])⟩

section
variable (s : State) (u : Option RoundUnit)

/-- RegRead answers alike and leaves the round unit. -/
theorem regRead_round (a : Offset) : regRead a { s with round := u } = { regRead a s with round := u } := by
  have hfree : readIsFree (regAt a) { s with round := u } = readIsFree (regAt a) s := rfl
  have hread : readReg (regAt a) { s with round := u } = readReg (regAt a) s := by cases regAt a <;> rfl
  unfold regRead
  rw [hfree, hread]
  split_ifs <;> rfl

/-- Issuing a command goes alike. -/
theorem issue_round (v : Word) : ∃ u', issue v { s with round := u } = { issue v s with round := u' } := by
  obtain ⟨⟨e, hd⟩, h⟩ | ⟨i, c, hd, hi, h⟩ | ⟨i, hd, hi, h⟩ := issue_cases v s
  · exact ⟨none, by rw [h, issue, hd]; rfl⟩
  · replace hi : issueFault i { s with round := u } = some c := hi
    exact ⟨none, by rw [h, issue, hd]; simp only [hi]; rfl⟩
  · replace hi : issueFault i { s with round := u } = none := hi
    exact ⟨u, by rw [h, issue, hd]; simp only [hi]⟩

/-- A violation abandons the round unit's work. -/
theorem violateBusy_round : violateBusy { s with round := u } = violateBusy s := by
  obtain hp | ⟨i, hp⟩ := s.pending.eq_none_or_eq_some
  · simp only [violateBusy, hp]
    rfl
  · obtain ⟨t, ht⟩ := exec_total i s
    obtain ⟨u', hu'⟩ := exec_round ht u
    rw [violateBusy_of_exec hp ht, violateBusy_of_exec (s := { s with round := u }) hp hu']
    unfold abandonTo
    split_ifs <;> rfl

/-- RegWrite goes alike. -/
theorem regWrite_round (a : Offset) (v : Word) :
    ∃ u', regWrite a v { s with round := u } = { regWrite a v s with round := u' } := by
  unfold regWrite
  split_ifs
  · exact ⟨u, rfl⟩
  · exact ⟨(violateBusy s).round, violateBusy_round s u⟩
  · cases regAt a with
    | cmd => exact issue_round s u v
    | status | arg | outlen | blocksize | outrem | din | dout | w | reserved => exact ⟨u, rfl⟩

/-- The engine's complete step answers alike. -/
theorem engineComplete_round : SameButRound (engineComplete s) (engineComplete { s with round := u }) := by
  unfold engineComplete
  split_ifs
  · exact .next s u
  · obtain hp | ⟨i, hp⟩ := s.pending.eq_none_or_eq_some
    · simp only [hp]
      exact hp ▸ .next s u
    · obtain ⟨t, ht⟩ := exec_total i s
      obtain ⟨u', hu'⟩ := exec_round ht u
      simp only [hp] at hu' ⊢
      rw [ht, hu']
      exact .next t u'

/-- Every move answers alike. -/
theorem takeEvent_round (e : Event) : SameButRound (takeEvent e s) (takeEvent e { s with round := u }) := by
  cases e with
  | hostWrite width a v =>
    simp only [takeEvent, hostWrite]
    split_ifs
    · exact .refused _
    · exact .of_exists (regWrite_round s u a v)
    · exact .refused _
  | hostRead width a =>
    simp only [takeEvent, hostRead]
    split_ifs
    · exact .refused _
    · exact .of_exists ⟨u, regRead_round s u a⟩
    · exact .refused _
  | engineComplete => exact engineComplete_round s u
  | engineRound =>
    obtain ⟨r, hr⟩ := engineRound_eq s
    obtain ⟨r', hr'⟩ := engineRound_eq { s with round := u }
    exact .of_exists ⟨r', by rw [hr, hr']⟩
  | resetAssert => exact .next _ none
  | resetRelease => exact .next _ u

/-- No move is left, or there is a next one. -/
theorem events_cases : s.events = [] ∨ ∃ e es, s.events = e :: es := by
  cases s.events with
  | nil => exact .inl rfl
  | cons e es => exact .inr ⟨e, es, rfl⟩

/-- Every step answers alike. -/
theorem step_round : SameButRound (step s) (step { s with round := u }) := by
  obtain he | ⟨e, es, he⟩ := events_cases s
  · rw [step_nil he, step_nil (s := { s with round := u }) he]
    unfold runQuiet
    split_ifs
    · exact .next s u
    · exact .fault _
    · exact engineComplete_round s u
  · rw [step_cons he, step_cons (s := { s with round := u }) he]
    exact takeEvent_round { s with events := es } u e

end

/-- Settles O53: every step agrees but for the round unit, and the round unit's move changes that field only. -/
theorem hiddenRoundIsInvisible : Obligations.HiddenRoundIsInvisible := by
  intro s u
  have h := step_round s u
  refine ⟨fun t ht => (ht ▸ h).eq_next, fun r hr => (hr ▸ h).eq_fault, fun r hr => (hr ▸ h).eq_refused, fun es he => ?_⟩
  obtain ⟨u', hu'⟩ := engineRound_eq { s with events := es }
  exact ⟨u', (step_cons he).trans (congrArg _ hu')⟩

end Sys2Proof.Machine

namespace Sys2Proof.Machine

/-! ### Who writes each element (10_state.md R37; 20_memory.md R56, R64) -/

/-- Every element of the block is in `t` as it was in `s`, or as it is in `u`, with DIN and ARG as in `s`. -/
structure ElementsFrom (s u t : State) : Prop where
  a_from : t.a = s.a ∨ t.a = u.a
  t_from : t.t = s.t ∨ t.t = u.t
  l_from : t.l = s.l ∨ t.l = u.l
  w_from : t.w = s.w ∨ t.w = u.w
  f_from : t.f = s.f ∨ t.f = u.f
  q_from : t.q = s.q ∨ t.q = u.q
  outValid_from : t.outValid = s.outValid ∨ t.outValid = u.outValid
  din_eq : t.din = s.din
  arg_eq : t.arg = s.arg

/-- A state whose elements are all those of `s`. -/
theorem ElementsFrom.same {s t : State} (u : State) (h : t.a = s.a ∧ t.t = s.t ∧ t.l = s.l ∧ t.w = s.w ∧ t.f = s.f ∧
    t.q = s.q ∧ t.outValid = s.outValid ∧ t.din = s.din ∧ t.arg = s.arg := by
      exact ⟨rfl, rfl, rfl, rfl, rfl, rfl, rfl, rfl, rfl⟩) : ElementsFrom s u t := by
  obtain ⟨ha, ht, hl, hw, hf, hq, hv, hdin, harg⟩ := h
  exact ⟨.inl ha, .inl ht, .inl hl, .inl hw, .inl hf, .inl hq, .inl hv, hdin, harg⟩

/-- A command leaves each element as it was or as its effect has it. -/
theorem elementsFrom_exec {i : Instr} {s t : State} (h : exec i s = .next t) : ElementsFrom s (commandEffect i s) t := by
  obtain ⟨-, rfl⟩ | ⟨-, c, -, rfl⟩ | ⟨-, -, rfl⟩ := exec_cases h
  · exact .same _
  · exact .same _
  · obtain ⟨hdin, harg, -⟩ := commandEffect_frame i s
    exact ⟨.inr rfl, .inr rfl, .inr rfl, .inr rfl, .inr rfl, .inr rfl, .inr rfl, hdin, harg⟩

/-- An abandoned command leaves each element as it was or as its effect has it. -/
theorem elementsFrom_abandonTo {s u v : State} (h : ElementsFrom s v u) (c : FaultCause) :
    ElementsFrom s v (raiseFault c (abandonTo u s)) := by
  obtain ⟨l, hl, habandon⟩ | habandon := abandonTo_cases u s
  · rw [habandon]
    refine ⟨h.a_from, h.t_from, ?_, h.w_from, h.f_from, h.q_from, h.outValid_from, rfl, rfl⟩
    obtain rfl | rfl := hl
    exacts [.inl rfl, h.l_from]
  · rw [habandon]
    exact .same _

/-- The three things a move can do to the elements: nothing, part of the pending command's effect, or the host's write of
one register of a ready block. -/
inductive MoveWrites (s t : State) : Option Event → Prop
  /-- nothing -/
  | nothing (e : Option Event) (h : ElementsFrom s s t) : MoveWrites s t e
  /-- the pending command, completed or abandoned -/
  | command (e : Option Event) (i : Instr) (hp : s.pending = some i) (h : ElementsFrom s (commandEffect i s) t) :
      MoveWrites s t e
  /-- the host's write of another register than CMD -/
  | host (a : Offset) (v : Word) (hready : Ready s) (halign : a.toNat % 4 = 0) (hcmd : a ≠ 0x00)
      (h : t = writeReg (regAt a) v s) : MoveWrites s t (some (.hostWrite .w32 a v))

/-- The engine's complete step writes nothing, or by the pending command. -/
theorem moveWrites_engineComplete {s t : State} (e : Option Event) (h : engineComplete s = .next t) :
    MoveWrites s t e := by
  obtain rfl | ⟨-, -, i, hp, hexec⟩ := engineComplete_cases h
  · exact .nothing e (.same _)
  · exact .command e i hp (elementsFrom_exec hexec)

/-- RegWrite of an aligned offset writes nothing, or by an abandoned command, or the register it names. -/
theorem moveWrites_regWrite {s : State} {a : Offset} (v : Word) (halign : a.toNat % 4 = 0) :
    MoveWrites s (regWrite a v s) (some (.hostWrite .w32 a v)) := by
  unfold regWrite
  split_ifs with hf hb
  · exact .nothing _ (.same _)
  · obtain hraise | ⟨i, u, hp, hu, hraise⟩ := violateBusy_cases s
    · exact hraise ▸ .nothing _ (.same _)
    · exact hraise ▸ .command _ i hp (elementsFrom_abandonTo (elementsFrom_exec hu) _)
  · by_cases hcmd : a = 0x00
    · subst hcmd
      exact .nothing _ (.same _ (issue_frame v s))
    · exact .host a v ⟨by simpa using hf, by simpa using hb⟩ halign hcmd rfl

/-- Every move but the assertion of reset writes in one of the three ways. -/
theorem moveWrites_takeEvent {e : Event} {s t : State} (he : e ≠ .resetAssert) (h : takeEvent e s = .next t) :
    MoveWrites s t (some e) := by
  cases e with
  | hostWrite width a v =>
    obtain ⟨rfl, halign, rfl⟩ := hostWrite_eq_next h
    exact moveWrites_regWrite v halign
  | hostRead width a =>
    obtain ⟨-, rfl⟩ := hostRead_eq_next h
    obtain ⟨v, k, hread⟩ := regRead_eq a s
    exact hread ▸ .nothing _ (.same _)
  | engineComplete => exact moveWrites_engineComplete _ h
  | engineRound =>
    obtain ⟨u, hround⟩ := engineRound_eq s
    obtain rfl : engineRound s = t := by injection h
    exact hround ▸ .nothing _ (.same _)
  | resetAssert => exact absurd rfl he
  | resetRelease =>
    cases h
    exact .nothing _ (.same _)

/-- So does every step, from the state with its move taken off. -/
theorem moveWrites_step {s t : State} (h : step s = .next t) (he : s.events.head? ≠ some .resetAssert) :
    MoveWrites { s with events := s.events.tail } t s.events.head? := by
  obtain hes | ⟨e, es, hes⟩ := events_cases s
  · rw [step_nil hes, runQuiet] at h
    rw [hes, List.tail_nil, ← hes]
    split_ifs at h
    · cases h
      exact .nothing _ (.same _)
    · exact moveWrites_engineComplete _ h
  · rw [step_cons hes] at h
    rw [hes] at he ⊢
    exact moveWrites_takeEvent (fun heq => he (congrArg some heq)) h

/-- A part of a command's effect that the effect leaves alone is as it was. -/
theorem eq_of_from {α : Type} {x y z : α} (h : x = y ∨ x = z) (hz : z = y) : x = y := h.elim id (·.trans hz)

/-- What a command writes: each element only if the command is one of those the access matrix names. -/
theorem commandWrites {i : Instr} {s t : State} (h : ElementsFrom s (commandEffect i s) t) :
    (t.a ≠ s.a ∨ t.t ≠ s.t → i = .new ∨ i = .reset ∨ ∃ n, i = .write n) ∧
    (t.l ≠ s.l → i = .new) ∧
    (t.f ≠ s.f ∨ t.q ≠ s.q ∨ t.outValid ≠ s.outValid → i = .sum ∨ i = .squeeze ∨ ∃ o, i = .osFinish o) ∧
    (t.w ≠ s.w → i = .wclear ∨ i = .permute ∨ i = .absorbBlock ∨ (∃ o b, i = .absorbByte o b) ∨ ∃ o, i = .osFinish o) := by
  refine ⟨fun hne => ?context, fun hne => ?length, fun hne => ?squeezer, fun hne => ?working⟩ <;> by_contra hi
  case context =>
    simp only [not_or, not_exists] at hi
    obtain ⟨hnew, hreset, hwrite⟩ := hi
    obtain ⟨ha, ht⟩ := commandEffect_a_t s (by simp [hnew, hreset]) hwrite
    exact hne.elim (absurd (eq_of_from h.a_from ha)) (absurd (eq_of_from h.t_from ht))
  case length => exact hne (eq_of_from h.l_from (commandEffect_l s hi))
  case squeezer =>
    simp only [not_or, not_exists] at hi
    obtain ⟨hsum, hsqueeze, hfinish⟩ := hi
    obtain ⟨hf, hq, hv⟩ := commandEffect_squeezer s (by simp [hsum, hsqueeze]) hfinish
    obtain hne | hne | hne := hne
    exacts [hne (eq_of_from h.f_from hf), hne (eq_of_from h.q_from hq), hne (eq_of_from h.outValid_from hv)]
  case working =>
    simp only [not_or, not_exists] at hi
    obtain ⟨hwclear, hpermute, hblock, hbyte, hfinish⟩ := hi
    exact hne (eq_of_from h.w_from (commandEffect_w s (by simp [hwclear, hpermute, hblock]) hbyte hfinish))

/-- Settles O55: the step writes nothing, or what its pending command may write, or the one register the host wrote. -/
theorem whoWritesEachElement : Obligations.WhoWritesEachElement := by
  intro s t hstep he
  have h := moveWrites_step hstep he
  generalize hd : s.events.head? = e at h
  cases h with
  | nothing _ h =>
    obtain ⟨ha, ht, hl, hw, hf, hq, hv, hdin, harg⟩ := h
    simp only [or_self] at ha ht hl hw hf hq hv
    simp [ha, ht, hl, hw, hf, hq, hv, hdin, harg]
  | command _ i hp h =>
    obtain ⟨hat, hl, hfqv, hw⟩ := commandWrites h
    replace hp : s.pending = some i := hp
    simp only [hp, Option.some.injEq]
    exact ⟨hat, hl, hfqv, fun hne => .inl (hw hne), fun hne => absurd h.din_eq hne, fun hne => absurd h.arg_eq hne⟩
  | host a v hready halign hcmd h =>
    obtain ⟨es, hes⟩ := List.head?_eq_some_iff.mp hd
    have hoffset := storeOffset_regAt halign
    subst h
    cases hr : regAt a with
    | cmd => exact absurd hr (regAt_ne_cmd hcmd)
    | arg =>
      obtain rfl : 0x08 = a := by simpa [hr, storesWrite, storeOffset] using hoffset
      simpa [writeReg] using fun _ => ⟨hready, es, hes⟩
    | din j =>
      obtain rfl : BitVec.ofNat 8 (0x20 + 4 * j) = a := by simpa [hr, storesWrite, storeOffset] using hoffset
      simpa [writeReg] using fun _ => ⟨hready, j, j.isLt, v, ⟨es, hes⟩, rfl⟩
    | w i =>
      obtain rfl : BitVec.ofNat 8 (0x40 + 4 * i) = a := by simpa [hr, storesWrite, storeOffset] using hoffset
      simpa [writeReg] using fun _ => .inr ⟨hready, i, i.isLt, v, ⟨es, hes⟩, rfl⟩
    | status | outlen | blocksize | outrem | dout | reserved => simp [writeReg]

end Sys2Proof.Machine

namespace Sys2Proof

open Machine

/-! ### Reading a chunk and squeezing the next (43_finalize_squeeze.md R162, R163; 30_encoding.md R83) -/

/-- STATUS shows OUT_VALID at bit 2. -/
theorem readReg_status_outValid {s : State} (hf : s.fault = false) : (readReg .status s).getLsbD 2 = s.outValid := by
  rw [readReg, getLsbD_status hf]
  simp

/-- A chunk read from DOUT is as many bytes of F as STATUS says are presented. -/
theorem readChunk_eq {s : State} (hf : s.fault = false) : readChunk s = (rateBytes s.f).take (outBytes s) := by
  have hle := outBytes_le s
  have hcount : ((readReg .status s).extractLsb' 8 5).toNat = outBytes s := by
    rw [readReg, status_extract_outBytes hf, BitVec.toNat_ofNat, Nat.mod_eq_of_lt (by omega)]
  have hbyte (k : Nat) (hk : k < outBytes s) :
      laneByte (readReg (.dout (Fin.ofNat 4 (k / 4))) s) (k % 4) = stateByte s.f k := by
    have hpos : 4 * (k / 4 % 4) + k % 4 = k := by omega
    rw [readReg, laneByte_dout s _ (Nat.mod_lt _ (by decide)), Fin.val_ofNat, hpos, chunkByte, if_pos hk]
  rw [readChunk, hcount, rateBytes, Config.rate, ← List.map_take, List.take_range, Nat.min_eq_left hle]
  exact List.map_congr_left fun k hk => hbyte k (List.mem_range.mp hk)

/-- `do SQUEEZE` with a chunk presented is its effect. -/
theorem doCommand_squeeze {s : State} (h : Ready s) (hr : s.resetAsserted = false) (hv : s.outValid = true) :
    doCommand .squeeze s = retire (squeezeEffect s) :=
  doCommand_of_passed h hr (issueFault_eq_none_iff.mpr ⟨rfl, nofun, fun _ => hv⟩)

/-- With no chunk presented the loop ends. -/
theorem squeezeAll_of_not_valid (n : Nat) {s : State} (hf : s.fault = false) (hv : s.outValid = false) :
    squeezeAll n s = ([], s) := by
  cases n with
  | zero => rfl
  | succ n => rw [squeezeAll, readReg_status_outValid hf, hv]; rfl

/-! ### The squeeze stream (43_finalize_squeeze.md R164) -/

/-- The rate is sixteen bytes. -/
@[simp] theorem length_rateBytes (S : SpongeState) : (rateBytes S).length = 16 := by simp [rateBytes, Config.rate]

/-- n chunks of the stream are 16n bytes. -/
@[simp] theorem length_squeezeStream (n : Nat) (S : SpongeState) : (squeezeStream n S).length = 16 * n := by
  induction n generalizing S with
  | zero => rfl
  | succ n ih => simp only [squeezeStream, List.length_append, length_rateBytes, ih]; omega

/-- The stream in two parts. -/
theorem squeezeStream_add (m n : Nat) (S : SpongeState) :
    squeezeStream (m + n) S = squeezeStream m S ++ squeezeStream n (perm^[m] S) := by
  induction m generalizing S with
  | zero => simp [squeezeStream]
  | succ m ih => rw [Nat.add_right_comm, squeezeStream, ih, squeezeStream, List.append_assoc, Function.iterate_succ_apply]

/-- More chunks of the stream have the same first bytes. -/
theorem take_squeezeStream {k m n : Nat} (hk : k ≤ 16 * m) (hmn : m ≤ n) (S : SpongeState) :
    (squeezeStream n S).take k = (squeezeStream m S).take k := by
  obtain ⟨d, rfl⟩ := Nat.exists_eq_add_of_le hmn
  rw [squeezeStream_add, List.take_append_of_le_length (by rwa [length_squeezeStream])]

/-! ### The squeeze loop (43_finalize_squeeze.md R164) -/

/-- A ready block presents the first chunk of the stream of `S`, with `n` bytes of it remaining. -/
structure Presents (s : State) (S : SpongeState) (n : Nat) : Prop where
  ready : Ready s
  released : s.resetAsserted = false
  valid : s.outValid = true
  f_eq : s.f = S
  q_eq : s.q.toNat = n

section
variable {s : State} {S : SpongeState} {n : Nat}

/-- One turn of the loop: a chunk of the stream, and SQUEEZE. -/
theorem squeezeAll_succ_of_presents (c : Nat) (h : Presents s S n) :
    squeezeAll (c + 1) s = ((rateBytes S).take n ++ (squeezeAll c (doCommand .squeeze s)).1,
      (squeezeAll c (doCommand .squeeze s)).2) := by
  have hbytes : outBytes s = min 16 n := (if_pos h.valid).trans (by rw [h.q_eq]; rfl)
  have hchunk : (rateBytes S).take (min 16 n) = (rateBytes S).take n := by
    rw [List.take_eq_take_iff, length_rateBytes]; omega
  rw [squeezeAll, readReg_status_outValid h.ready.1, if_pos h.valid, readChunk_eq h.ready.1, hbytes, h.f_eq, hchunk]

/-- SQUEEZE with more than a chunk left presents the next chunk of the stream. -/
theorem presents_squeeze (h : Presents s S n) (hn : 16 < n) : Presents (doCommand .squeeze s) (perm S) (n - 16) := by
  obtain ⟨hready, hr, hv, rfl, rfl⟩ := h
  have hq : 16 < s.q := hn
  rw [doCommand_squeeze hready hr hv, squeezeEffect, if_pos hq]
  exact ⟨⟨hready.1, rfl⟩, hr, hv, rfl, show (s.q - 16).toNat = _ by bv_omega⟩

/-- SQUEEZE of the last chunk ends the output and leaves F. -/
theorem doCommand_squeeze_last (h : Presents s S n) (hn : n ≤ 16) :
    doCommand .squeeze s = retire { s with q := 0, outValid := false } := by
  obtain ⟨hready, hr, hv, rfl, rfl⟩ := h
  have hq : ¬ 16 < s.q := Nat.not_lt.mpr hn
  rw [doCommand_squeeze hready hr hv, squeezeEffect, if_neg hq]

/-- The bytes read in c turns are c chunks of the stream, up to the bytes remaining. -/
theorem squeezeAll_fst (c : Nat) (h : Presents s S n) :
    (squeezeAll c s).1 = (squeezeStream c S).take n := by
  induction c generalizing s S n with
  | zero => exact List.take_nil.symm
  | succ c ih =>
    rw [squeezeAll_succ_of_presents c h, squeezeStream, List.take_append, length_rateBytes]
    by_cases hn : 16 < n
    · rw [ih (presents_squeeze h hn)]
    · have hend : n - 16 = 0 := by omega
      have hfault : (doCommand .squeeze s).fault = false := by
        rw [doCommand_squeeze_last h (by omega)]; exact h.ready.1
      rw [squeezeAll_of_not_valid c hfault (by rw [doCommand_squeeze_last h (by omega)]; rfl), hend, List.take_zero]

/-- Before the last chunk each turn presents the next chunk of the stream. -/
theorem presents_squeezeAll (k : Nat) (h : Presents s S n) (hk : 16 * k < n) :
    Presents (squeezeAll k s).2 (perm^[k] S) (n - 16 * k) := by
  induction k generalizing s S n with
  | zero => exact h
  | succ k ih =>
    have hrest := ih (presents_squeeze h (by omega)) (by omega)
    have hcount : n - 16 - 16 * k = n - 16 * (k + 1) := by omega
    rw [squeezeAll_succ_of_presents k h, Function.iterate_succ_apply, ← hcount]
    exact hrest

/-- The turn that reads the last chunk ends the output. -/
theorem squeezeAll_last (k : Nat) (h : Presents s S n) (hk : 16 * k < n) (hn : n ≤ 16 * (k + 1)) :
    (squeezeAll (k + 1) s).2.outValid = false ∧ (squeezeAll (k + 1) s).2.fault = false ∧
    (squeezeAll (k + 1) s).2.f = perm^[k] S := by
  induction k generalizing s S n with
  | zero =>
    rw [squeezeAll_succ_of_presents 0 h, squeezeAll, doCommand_squeeze_last h hn]
    exact ⟨rfl, h.ready.1, h.f_eq⟩
  | succ k ih =>
    rw [squeezeAll_succ_of_presents (k + 1) h]
    exact ih (presents_squeeze h (by omega)) (by omega) (by omega)

end

/-! ### SUM and its output (43_finalize_squeeze.md section 5) -/

/-- `do SUM` on a ready block is its effect. -/
theorem doCommand_sum {s : State} (h : Ready s) (hr : s.resetAsserted = false) :
    doCommand .sum s = retire (sumEffect s) :=
  doCommand_of_unchecked .sum rfl nofun nofun h hr

/-- SUM presents the stream of the padded and permuted copy of A, L bytes of it. -/
theorem presents_sum {s : State} (h : Ready s) (hr : s.resetAsserted = false) :
    Presents (doCommand .sum s) (perm (pad s.a (s.t.toNat % 16))) s.l.toNat := by
  rw [doCommand_sum h hr]
  exact ⟨⟨h.1, rfl⟩, hr, rfl, rfl, rfl⟩

/-- Settles O56: the loop on what SUM presents, with the last chunk at ceil(L / 16). -/
theorem squeezedOutput : Obligations.SqueezedOutput := by
  intro s h hr hl
  have hpos : 0 < s.l.toNat := by bv_omega
  have hsum := presents_sum h hr
  obtain ⟨k, hc⟩ : ∃ k, (s.l.toNat + 15) / 16 = k + 1 := ⟨(s.l.toNat + 15) / 16 - 1, by omega⟩
  obtain ⟨hvalid, hfault, hf⟩ := squeezeAll_last k hsum (by omega) (by omega)
  have hbytes := squeezeAll_fst (k + 1) hsum
  simp only [hc]
  refine ⟨hbytes, ?length, hvalid, hfault, fun j hj => ?before, hf, fun L hL => ?longer⟩
  case length => rw [hbytes, List.length_take, length_squeezeStream]; omega
  case before =>
    have hj := presents_squeezeAll j hsum (by omega)
    exact ⟨hj.valid, hj.f_eq⟩
  case longer =>
    have hlt : s.l.toNat < L.toNat := hL
    have hsumL : Presents (doCommand .sum { s with l := L }) (perm (pad s.a (s.t.toNat % 16))) L.toNat :=
      presents_sum (s := { s with l := L }) h hr
    rw [hbytes, squeezeAll_fst ((L.toNat + 15) / 16) hsumL, List.take_take, Nat.min_eq_left hlt.le]
    exact (take_squeezeStream (by omega) (by omega) _).symm

end Sys2Proof

namespace Sys2Proof

open Machine

/-! ### Two SUMs of one context (43_finalize_squeeze.md R166) -/

/-- SUM presents the same chunks from any two ready blocks with the same context. -/
theorem squeezeAll_sum_congr (n : Nat) {s t : State} (hs : Ready s) (hsr : s.resetAsserted = false) (ht : Ready t)
    (htr : t.resetAsserted = false) (ha : t.a = s.a) (hcount : t.t = s.t) (hl : t.l = s.l) :
    (squeezeAll n (doCommand .sum t)).1 = (squeezeAll n (doCommand .sum s)).1 := by
  rw [squeezeAll_fst n (presents_sum ht htr), squeezeAll_fst n (presents_sum hs hsr), ha, hcount, hl]

/-- A step that leaves the context alone does: only NEW, RESET and WRITE write it. -/
theorem context_eq_of_contextStep {s t : State} (h : ContextStep s t) : t.a = s.a ∧ t.t = s.t ∧ t.l = s.l := by
  obtain ⟨hstep, hreset, hpending⟩ := h
  obtain ⟨hcontext, hlength, -⟩ := whoWritesEachElement s t hstep hreset
  have hkeep : ¬ (t.a ≠ s.a ∨ t.t ≠ s.t) := fun hne => by
    obtain hp | hp | ⟨n, hp⟩ := hcontext hne <;> cases hpending _ hp
  simp only [not_or, not_not] at hkeep
  exact ⟨hkeep.1, hkeep.2, by_contra fun hne => absurd (hpending _ (hlength hne)) (by decide)⟩

/-- So does a run of such steps. -/
theorem context_eq_of_run {s t : State} (h : Relation.ReflTransGen ContextStep s t) :
    t.a = s.a ∧ t.t = s.t ∧ t.l = s.l := by
  induction h with
  | refl => exact ⟨rfl, rfl, rfl⟩
  | tail _ hstep ih =>
    obtain ⟨ha, ht, hl⟩ := context_eq_of_contextStep hstep
    exact ⟨ha.trans ih.1, ht.trans ih.2.1, hl.trans ih.2.2⟩

/-- A command that writes no context element leaves the context alone. -/
theorem commandEffect_context {i : Instr} (hi : writesContext i = false) (s : State) :
    (commandEffect i s).a = s.a ∧ (commandEffect i s).t = s.t ∧ (commandEffect i s).l = s.l := by
  have hnew : i ≠ .new := by rintro rfl; cases hi
  have hreset : i ≠ .reset := by rintro rfl; cases hi
  have hwrite (n : BitVec 5) : i ≠ .write n := by rintro rfl; cases hi
  obtain ⟨ha, ht⟩ := commandEffect_a_t s (by simp [hnew, hreset]) hwrite
  exact ⟨ha, ht, commandEffect_l s hnew⟩

/-- `do` of a well-formed command that does not fault is its effect. -/
theorem doCommand_of_not_faulted {i : Instr} {s : State} (h : Ready s) (hr : s.resetAsserted = false)
    (hi : i.WellFormed) (hf : (doCommand i s).fault = false) : doCommand i s = retire (commandEffect i s) := by
  cases hc : issueFault i s with
  | none => exact doCommand_of_passed h hr hc
  | some c =>
    have hwrite : regWrite 0x00 (encode i) s = raiseFault c s := by
      rw [regWrite_cmd h, issue, decode_encode hi]; simp only [hc]
    have hdo : doCommand i s = raiseFault c s := by
      simp only [doCommand, hwrite, engineComplete_faulted (s := raiseFault c s) rfl, nextOr]
    rw [hdo] at hf
    cases hf

/-- `do`s in the fault state change nothing. -/
theorem doCommands_faulted (is : List Instr) {s : State} (hf : s.fault = true) : doCommands is s = s := by
  induction is with
  | nil => rfl
  | cons i is ih => exact (congrArg (doCommands is) (doCommand_faulted hf)).trans ih

/-- `do`s of commands that write no context element, none of which faults, leave the block ready with the context it
had. -/
theorem doCommands_context {is : List Instr} {s : State} (h : Ready s) (hr : s.resetAsserted = false)
    (his : ∀ i ∈ is, i.WellFormed ∧ writesContext i = false) (hf : (doCommands is s).fault = false) :
    Ready (doCommands is s) ∧ (doCommands is s).resetAsserted = false ∧ (doCommands is s).a = s.a ∧
    (doCommands is s).t = s.t ∧ (doCommands is s).l = s.l := by
  induction is generalizing s with
  | nil => exact ⟨h, hr, rfl, rfl, rfl⟩
  | cons i is ih =>
    obtain ⟨hwf, hi⟩ := his i List.mem_cons_self
    have hcons : doCommands (i :: is) s = doCommands is (doCommand i s) := rfl
    have hfirst : (doCommand i s).fault = false := by
      by_contra hfault
      rw [hcons, doCommands_faulted is (by simpa using hfault)] at hf
      exact hfault hf
    obtain ⟨-, -, hfault, -, -, -, -, hreset, -⟩ := commandEffect_frame i s
    obtain ⟨ha, ht, hl⟩ := commandEffect_context hi s
    rw [hcons, doCommand_of_not_faulted h hr hwf hfirst] at hf ⊢
    obtain ⟨hready, hreleased, ha', ht', hl'⟩ := ih (s := retire (commandEffect i s)) ⟨hfault.trans h.1, rfl⟩
      (hreset.trans hr) (fun j hj => his j (List.mem_cons_of_mem i hj)) hf
    exact ⟨hready, hreleased, ha'.trans ha, ht'.trans ht, hl'.trans hl⟩

/-- Settles O57: SUM keeps the context, and so does what stands between the two SUMs. -/
theorem sumIsIdempotent : Obligations.SumIsIdempotent := by
  intro s n h hr
  have hsum := presents_sum h hr
  have hkeep : (doCommand .sum s).a = s.a ∧ (doCommand .sum s).t = s.t ∧ (doCommand .sum s).l = s.l := by
    rw [doCommand_sum h hr]; exact ⟨rfl, rfl, rfl⟩
  obtain ⟨ha, ht, hl⟩ := hkeep
  refine ⟨fun t hrun hready hreleased => ?_, fun is his hf => ?_⟩
  · obtain ⟨ha', ht', hl'⟩ := context_eq_of_run hrun
    exact squeezeAll_sum_congr n h hr hready hreleased (ha'.trans ha) (ht'.trans ht) (hl'.trans hl)
  · obtain ⟨hready, hreleased, ha', ht', hl'⟩ := doCommands_context hsum.ready hsum.released his hf
    exact squeezeAll_sum_congr n h hr hready hreleased (ha'.trans ha) (ht'.trans ht) (hl'.trans hl)

/-! ### The one-shot sequence (44_oneshot.md R180, R181) -/

/-- The final State of the one-shot path for a message: its bytes absorbed from the zero State, padded and permuted. -/
def oneShotState (m : List Byte) : SpongeState := perm (pad (absorbInto SpongeState.zero 0 m) (m.length % 16))

/-- What DIN holds after c blocks of a message were loaded. -/
def lastDin : Nat → List Byte → Vector Word 4 → Vector Word 4
  | 0, _, D => D
  | c + 1, m, _ => lastDin c (m.drop 16) (pieceWords (m.take 16))

/-- The complete blocks: each is loaded into DIN and absorbed into W. -/
theorem oneShotBlocks_retire (c : Nat) (m : List Byte) {s : State} (hf : s.fault = false) (hr : s.resetAsserted = false) :
    oneShotBlocks c m (retire s) = retire { s with w := absorbBlocks c s.w m, din := lastDin c m s.din } := by
  induction c generalizing m s with
  | zero => rfl
  | succ c ih =>
    have hready : Ready (retire s) := ⟨hf, rfl⟩
    have hblock : doCommand .absorbBlock (loadDin (m.take 16) (retire s)) =
        retire { s with w := absorbBlock s.w (m.take 16), din := pieceWords (m.take 16) } := by
      rw [loadDin_ready hready]
      exact doCommand_of_unchecked .absorbBlock rfl nofun nofun (s := { retire s with din := pieceWords (m.take 16) })
        hready hr
    rw [oneShotBlocks, Config.rate, hblock]
    exact ih (m.drop 16) (s := { s with w := absorbBlock s.w (m.take 16), din := pieceWords (m.take 16) }) hf hr

/-- The tail bytes: each is XORed into W at the next offset. -/
theorem oneShotTail_retire {k : Nat} {m : List Byte} (hm : k + m.length ≤ 16) {s : State} (hf : s.fault = false)
    (hr : s.resetAsserted = false) : oneShotTail k m (retire s) = retire { s with w := xorBytes s.w k m } := by
  induction m generalizing k s with
  | nil => rfl
  | cons b m ih =>
    rw [List.length_cons] at hm
    have hoff : (BitVec.ofNat 4 k).toNat = k := Nat.mod_eq_of_lt (by omega)
    have hready : Ready (retire s) := ⟨hf, rfl⟩
    have hbyte : doCommand (.absorbByte (BitVec.ofNat 4 k) b) (retire s) = retire { s with w := xorByte s.w k b } := by
      rw [doCommand_of_unchecked (.absorbByte _ _) rfl nofun nofun hready hr]
      simp only [commandEffect, absorbByteEffect, hoff]
      rfl
    rw [oneShotTail, hbyte]
    exact ih (by omega) (s := { s with w := xorByte s.w k b }) hf hr

/-- The last command pads at the tail's length, permutes, and presents 32 bytes. -/
theorem doCommand_osFinish_retire {off : BitVec 4} {s : State} (hf : s.fault = false) (hr : s.resetAsserted = false) :
    doCommand (.osFinish off) (retire s) = retire { s with
      w := perm (pad s.w off.toNat), f := perm (pad s.w off.toNat), q := 32, outValid := true } :=
  doCommand_of_unchecked (.osFinish off) rfl nofun nofun (s := retire s) ⟨hf, rfl⟩ hr

/-- The one-shot sequence leaves its final State in W and F with 32 bytes to read, and touches nothing else but DIN. -/
theorem oneShot_ready {s : State} (h : Ready s) (hr : s.resetAsserted = false) (m : List Byte) :
    oneShot m s = retire { s with
      w := oneShotState m, f := oneShotState m, q := 32, outValid := true, din := lastDin (m.length / 16) m s.din } := by
  have hclear : doCommand .wclear s = retire { s with w := SpongeState.zero } :=
    doCommand_of_unchecked .wclear rfl nofun nofun h hr
  have hblocks := oneShotBlocks_retire (m.length / 16) m (s := { s with w := SpongeState.zero }) h.1 hr
  have htail := oneShotTail_retire (k := 0) (m := m.drop (16 * (m.length / 16)))
    (s := { s with w := absorbBlocks (m.length / 16) SpongeState.zero m, din := lastDin (m.length / 16) m s.din })
    (by rw [List.length_drop]; omega) h.1 hr
  have hfinish := doCommand_osFinish_retire (off := BitVec.ofNat 4 (m.length % 16))
    (s := { s with w := absorbInto SpongeState.zero 0 m, din := lastDin (m.length / 16) m s.din }) h.1 hr
  have hoff : (BitVec.ofNat 4 (m.length % 16)).toNat = m.length % 16 := Nat.mod_eq_of_lt (by omega)
  rw [hoff] at hfinish
  simp only [oneShot, Config.rate]
  rw [hclear, hblocks, htail]
  exact hfinish

/-- Settles O59: the sequence's one state does not depend on the context, and holds the context it was given. -/
theorem oneShotLeavesTheContext : Obligations.OneShotLeavesTheContext := by
  intro s m A T L h hr
  rw [oneShot_ready h hr, oneShot_ready (s := { s with a := A, t := T, l := L }) h hr]
  exact ⟨rfl, rfl, rfl, rfl⟩

/-- The one-shot sequence presents the stream of its final State, 32 bytes of it. -/
theorem presents_oneShot {s : State} (h : Ready s) (hr : s.resetAsserted = false) (m : List Byte) :
    Presents (oneShot m s) (oneShotState m) 32 := by
  rw [oneShot_ready h hr]
  exact ⟨⟨h.1, rfl⟩, hr, rfl, rfl, rfl⟩

/-- SUM after the pieces of a message, written into a fresh context with L = 32, presents the same stream. -/
theorem presents_sum_writePieces {s : State} (h : Ready s) (hr : s.resetAsserted = false) (ha : s.a = SpongeState.zero)
    (ht : s.t = 0) (hl : s.l = 32) {ps : List (List Byte)} (hps : ∀ p ∈ ps, p.length ≤ 16) :
    Presents (doCommand .sum (writePieces ps s)) (oneShotState ps.flatten) 32 := by
  obtain ⟨hready, hreleased, hlength, hfold, hcounted⟩ := writePieces_ready h hr hps
  have hstate : (writePieces ps s).a = absorbInto SpongeState.zero 0 ps.flatten := by
    rw [hfold, absorbFold_fst, ha, ht]
    rfl
  have hcount : (writePieces ps s).t.toNat % 16 = ps.flatten.length % 16 := by
    rw [hcounted, absorbFold_snd, toNat_add_ofNat_mod_rate, ht]
    simp
  have hsum := presents_sum hready hreleased
  rwa [hstate, hcount, hlength, hl] at hsum

/-- Settles O58: both paths absorb the message into the zero State, pad it at its length modulo 16 and present 32 bytes. -/
theorem oneShotEqualsStreaming : Obligations.OneShotEqualsStreaming := by
  rintro s s' m ps h hr h' hr' ha ht hl hps rfl
  have hone := presents_oneShot h hr ps.flatten
  have hstream := presents_sum_writePieces h' hr' ha ht hl hps
  refine ⟨hone.f_eq.trans hstream.f_eq.symm, BitVec.eq_of_toNat_eq (hone.q_eq.trans hstream.q_eq.symm),
    hone.valid.trans hstream.valid.symm, ?bytes, ?length⟩
  case bytes => rw [squeezeAll_fst 2 hone, squeezeAll_fst 2 hstream]
  case length => rw [squeezeAll_fst 2 hone, List.length_take, length_squeezeStream]; rfl

end Sys2Proof
